-- ==== Sys2Proof/Word.lean ====
section
/-! DEFINITION. The one machine word of this hardware: the 8-bit bus byte (R8 "a bus byte is 8 bits"). -/

namespace Sys2Proof

/-- A bus byte, a command byte, a register address (R8, R50). -/
abbrev Byte := BitVec 8

/-- A 32-bit pattern: the payload word `W` (R52) or a binary32 value (R72 `f32`). -/
abbrev Word32 := BitVec 32

end Sys2Proof
end

