-- ==== Sys2Proof/Config.lean ====
section
/-! DEFINITION. The implementation parameters of R6 and R7, the interface events of R11, the number domain of R12 and the
free values: what is fixed before reset, and what no rule fixes at all. -/

namespace Sys2Proof

/-- A pin identifier: "an opaque value that the platform understands" (R6). The engine only compares it with itself. -/
structure PinId where
  id : Nat
  deriving DecidableEq, Repr

/-- A GPIO level (R11). -/
inductive Level where
  | LOW
  | HIGH
  deriving DecidableEq, Repr

/-- The idle level of the bus clock, first part of `P_BUS_MODE` (R7, D12). -/
inductive ClockPolarity where
  | idleHigh
  | idleLow
  deriving DecidableEq, Repr

/-- The clock edge on which data is sampled, second part of `P_BUS_MODE` (R7, D12). -/
inductive ClockPhase where
  | sampleTrailing
  | sampleLeading
  deriving DecidableEq, Repr

/-- The order of the bits of a byte on the wire, third part of `P_BUS_MODE` (R7, R54). -/
inductive BitOrder where
  | msbFirst
  | lsbFirst
  deriving DecidableEq, Repr

/-- `P_BUS_MODE` (R7). -/
structure BusMode where
  polarity : ClockPolarity
  phase    : ClockPhase
  bitOrder : BitOrder
  deriving DecidableEq, Repr

/-- `BUSCFG = (P_BUS_MODE, P_BUS_CLOCK_HZ)`, the argument of every `TxnBegin` (R103, R120). -/
structure BusCfg where
  mode    : BusMode
  clockHz : Nat
  deriving DecidableEq, Repr

/-- The four bytes of a frame in the order sent (R51, R76). -/
structure FrameBytes where
  ra : Byte
  wa : Byte
  dl : Byte
  dh : Byte
  deriving DecidableEq, Repr

/-- `P_LATCH_STRATEGY` (R6, R140). `SW_BITS` carries `P_SW_LATCH_FRAME`, which R7 says is "Needed only when
`P_LATCH_STRATEGY = SW_BITS`" and R272 says must be fixed then. DESIGN CHOICE (assumption 24). -/
inductive LatchStrategy where
  | PIN
  | SW_BITS (frame : FrameBytes)
  deriving DecidableEq, Repr

/-- `P_NUMERICS` (R7, R171). -/
inductive Numerics where
  | EXACT
  | BINARY32
  deriving DecidableEq, Repr

/-- `P_ENERGY_CH_PATH` (R7, R197). -/
inductive EnergyPath where
  | NORMAL
  | SETTLED
  deriving DecidableEq, Repr

/-- `P_TIME_UNIT`, the unit of the delays of bring-up (R7). No rule reads it (R278). DESIGN CHOICE
(assumption 23): the events of the delays do not change with it. -/
inductive TimeUnit where
  | milliseconds
  | microseconds
  deriving DecidableEq, Repr

/-- `P_ADDR_MAP`: the seven register addresses under the names of R81. -/
structure AddrMap where
  A_RMS1 : Byte
  A_RMS2 : Byte
  A_PWR1 : Byte
  A_PWR2 : Byte
  A_EN1  : Byte
  A_EN2  : Byte
  A_ENT  : Byte
  deriving DecidableEq, Repr

/-- The implementation parameters of R6 and R7, under the spec's names. They are "fixed before reset and never change".
The three parameters R6 marks "fixed" are constants (`Machine/Params.lean`). -/
structure Config where
  P_RST_PIN        : PinId
  P_CS_PIN         : PinId
  P_SYNC_PIN       : Option PinId
  P_LINE_FREQ_HZ   : Nat
  P_LATCH_STRATEGY : LatchStrategy
  P_BUS_CLOCK_HZ   : Nat
  P_ADDR_MAP       : AddrMap
  P_TIME_UNIT      : TimeUnit
  P_NUMERICS       : Numerics
  P_ENERGY_CH_PATH : EnergyPath
  P_BUS_MODE       : BusMode
  deriving DecidableEq, Repr

/-- The ranges R6 gives its numeric parameters: the line frequency is a positive integer, and the bus clock a positive
integer of at most 12 000 000 Hz (R279). -/
def Config.wf (c : Config) : Bool :=
  decide (0 < c.P_LINE_FREQ_HZ) && decide (0 < c.P_BUS_CLOCK_HZ) && decide (c.P_BUS_CLOCK_HZ ≤ 12000000)

/-- An interface event of the trace, one for each interface action of R11. -/
inductive Event where
  /-- `CFG(pin)`: `GpioCfg(pin)`. -/
  | CFG (pin : PinId)
  /-- `WR(pin, lvl)`: `GpioWr(pin, lvl)`. -/
  | WR (pin : PinId) (lvl : Level)
  /-- `DMS(n)`: a delay of at least `n` milliseconds. -/
  | DMS (n : Nat)
  /-- `DUS(n)`: a delay of at least `n` microseconds. -/
  | DUS (n : Nat)
  /-- `BEGIN`: `BusBegin()`. -/
  | BEGIN
  /-- `TB(cfg)`: `TxnBegin(cfg)`. -/
  | TB (cfg : BusCfg)
  /-- `X(b, r)`: `Xfer(b)` sent `b` and received `r`. -/
  | X (b r : Byte)
  /-- `TE`: `TxnEnd()`. -/
  | TE
  deriving DecidableEq, Repr

/-- `Num` (R12): an exact rational under `EXACT`, an IEEE 754 binary32 pattern under `BINARY32`. -/
inductive NumVal where
  | exact (q : Rat)
  | binary32 (b : Word32)
  deriving DecidableEq, Repr, Inhabited

/-! ## Free values

None of these has a body, so no proof can see what it is. -/

/-- The byte the meter IC returns for `Xfer(b)` after the trace `tr`, when the environment has scripted no answer: R128 "an
oracle that may see the whole `TRACE` and returns any byte". DESIGN CHOICE (assumption 7). -/
opaque Config.icOracle (tr : List Event) (b : Byte) : Byte

/-- The sign and payload bits of a NaN result of a binary32 operation, which the spec does not fix.
DESIGN CHOICE (assumption 18). -/
opaque Config.freeNaN (a b : Word32) : Word32

/-- The result of an operation whose two operands lie in different number domains, which no rule describes and which happens
in no reachable state (`Safety.lean`, `CalInv`). DESIGN CHOICE (assumption 19). -/
opaque Config.freeMixed (a b : NumVal) : NumVal

end Sys2Proof
end

