-- ==== Sys2Proof/Machine/Binary32.lean ====
section
/-! DEFINITION. IEEE 754 binary32 patterns and the operations R171 uses on them under `BINARY32`: each is the exact result
rounded to nearest, ties to even. The layout is R72's: sign bit 31, exponent bits 30..23, fraction bits 22..0. PRESUMED (assumption
16): both are the spec's "from general knowledge, not in source". -/

namespace Sys2Proof.Machine.B32

/-- The sign bit (R72). -/
def sign (b : Word32) : Bool := b.msb

/-- The biased exponent field (R72). -/
def expo (b : Word32) : Nat := (b.extractLsb' 23 8).toNat

/-- The fraction field (R72). -/
def frac (b : Word32) : Nat := (b.extractLsb' 0 23).toNat

def isNaN (b : Word32) : Bool := decide (expo b = 255 ∧ frac b ≠ 0)

def isInf (b : Word32) : Bool := decide (expo b = 255 ∧ frac b = 0)

def isFinite (b : Word32) : Bool := decide (expo b ≠ 255)

def isZero (b : Word32) : Bool := decide (expo b = 0 ∧ frac b = 0)

/-- The significand of a finite pattern, the implicit bit of a normal one included. -/
def significand (b : Word32) : Nat := if expo b = 0 then frac b else frac b + 2 ^ 23

/-- The numerator of a finite pattern's magnitude `significand * 2 ^ (max expo 1 - 150)`. -/
def magNum (b : Word32) : Nat := significand b * 2 ^ (max (expo b) 1 - 150)

/-- The denominator of a finite pattern's magnitude. -/
def magDen (b : Word32) : Nat := 2 ^ (150 - max (expo b) 1)

/-- The real value of a finite pattern, an exact rational (R220 "Every finite binary32 value is a rational"). -/
def value (b : Word32) : Rat :=
  mkRat (if sign b then -(magNum b : Int) else (magNum b : Int)) (magDen b)

/-- The exponent of the greatest power of two that is not above `n / d`, for positive `n` and `d`. -/
def floorLog2 (n d : Nat) : Int :=
  let k : Int := (n.log2 : Int) - (d.log2 : Int)
  if d * 2 ^ k.toNat ≤ n * 2 ^ (-k).toNat then k else k - 1

/-- The lower 31 bits of the binary32 pattern nearest to `n / d`, ties to the even pattern, overflow to infinity. The
quantum of the result is `2 ^ (e - 23)`, with `e` at least the least normal exponent -126, so that subnormal results come out
of the same division. -/
def roundMag (n d : Nat) : Nat :=
  if n = 0 then 0
  else
    let e : Int := max (floorLog2 n d) (-126)
    let q : Int := e - 23
    let num := n * 2 ^ (-q).toNat
    let den := d * 2 ^ q.toNat
    let m := num / den
    let r := num % den
    let m' := if den < 2 * r ∨ (2 * r = den ∧ m % 2 = 1) then m + 1 else m
    min ((e + 126).toNat * 2 ^ 23 + m') 0x7F800000

/-- The pattern of a sign and a 31-bit magnitude pattern. -/
def pack (s : Bool) (mag : Nat) : Word32 := BitVec.ofNat 32 (mag + (if s then 2 ^ 31 else 0))

/-- Infinity of a sign. -/
def infinity (s : Bool) : Word32 := pack s 0x7F800000

/-- A rational rounded to binary32 (R12, R171). Zero gives +0: PRESUMED (assumption 17). -/
def ofRat (q : Rat) : Word32 := pack (decide (q.num < 0)) (roundMag q.num.natAbs q.den)

/-- A NaN whose sign and payload no rule fixes: exponent all ones and a quiet bit, the other bits free.
DESIGN CHOICE (assumption 18). -/
def nan (a b : Word32) : Word32 := Config.freeNaN a b ||| 0x7FC00000

/-- The product of two patterns: the exact product rounded once (R171). Infinities, NaNs and the sign of a zero are IEEE 754's:
PRESUMED (assumptions 16, 17). -/
def mul (a b : Word32) : Word32 :=
  let s := sign a ^^ sign b
  if isNaN a || isNaN b then nan a b
  else if isInf a || isInf b then
    if isZero a || isZero b then nan a b else infinity s
  else pack s (roundMag (magNum a * magNum b) (magDen a * magDen b))

/-- The quotient of two patterns: the exact quotient rounded once (R171). -/
def div (a b : Word32) : Word32 :=
  let s := sign a ^^ sign b
  if isNaN a || isNaN b then nan a b
  else if isInf a then
    if isInf b then nan a b else infinity s
  else if isInf b then pack s 0
  else if isZero b then
    if isZero a then nan a b else infinity s
  else pack s (roundMag (magNum a * magDen b) (magDen a * magNum b))

end Sys2Proof.Machine.B32
end

