-- ==== Sys2Proof/Machine/Num.lean ====
section
/-! DEFINITION. The number domain `Num` of R12: `toNum`, literals, multiplication and division under `P_NUMERICS`. -/

namespace Sys2Proof.Machine

/-- `toNum(z)` (R12, R171): the integer itself, or the integer rounded to binary32. -/
def toNum (m : Numerics) (z : Int) : NumVal :=
  match m with
  | .EXACT => .exact z
  | .BINARY32 => .binary32 (B32.ofRat z)

/-- `lit(c)` (R12, R171): the exact rational of a literal, or that rational rounded to binary32. -/
def lit (m : Numerics) (c : Rat) : NumVal :=
  match m with
  | .EXACT => .exact c
  | .BINARY32 => .binary32 (B32.ofRat c)

/-- The multiplication of R12 in the domain of the operands. -/
def numMul (a b : NumVal) : NumVal :=
  match a, b with
  | .exact x, .exact y => .exact (x * y)
  | .binary32 x, .binary32 y => .binary32 (B32.mul x y)
  | .exact _, .binary32 _ => Config.freeMixed a b
  | .binary32 _, .exact _ => Config.freeMixed a b

/-- The division of R12 in the domain of the operands. Its one use divides by 24 (R173). -/
def numDiv (a b : NumVal) : NumVal :=
  match a, b with
  | .exact x, .exact y => .exact (x / y)
  | .binary32 x, .binary32 y => .binary32 (B32.div x y)
  | .exact _, .binary32 _ => Config.freeMixed a b
  | .binary32 _, .exact _ => Config.freeMixed a b

/-- `num32(x)` of R220: the exact rational that a binary32 value denotes, or the value itself. -/
def num32 (m : Numerics) (x : Word32) : NumVal :=
  match m with
  | .EXACT => .exact (B32.value x)
  | .BINARY32 => .binary32 x

/-- The multiplier 1.0, the reset value of the calibration table (R25). -/
def numOne (m : Numerics) : NumVal := toNum m 1

/-- The sentinel -1 of the single-value reads and of `CONV_V`, `CONV_I` and `CONV_P` (R198, R241). -/
def sentinel (m : Numerics) : NumVal := toNum m (-1)

/-- `finite(x) and x > 0` for the real value of a binary32 pattern, the check of `SET_CAL` (R220). -/
def positiveFinite (x : Word32) : Bool := B32.isFinite x && !B32.isZero x && !B32.sign x

end Sys2Proof.Machine
end

