-- ==== Sys2Proof/Machine/Params.lean ====
section
/-! DEFINITION. The parameters R6 fixes, the reference values of R7 and R81, and the configuration of the reset state. -/

namespace Sys2Proof.Machine

/-- `P_FILLER` (R6, R79): the byte sent where no address or data is meant. -/
def P_FILLER : Byte := 0xFF

/-- `P_SETTLE_EXCHANGES` (R6, R78): the 4-byte exchanges of a settle capture. -/
def P_SETTLE_EXCHANGES : Nat := 4

/-- `P_SYNC_TOGGLES` (R6, R102): the low to high toggles of bring-up. -/
def P_SYNC_TOGGLES : Nat := 3

/-- The reference default of `P_ADDR_MAP` (R81, "from general knowledge, not in source"). PRESUMED (assumption 4). -/
def referenceAddrMap : AddrMap :=
  { A_RMS1 := 0x48, A_RMS2 := 0x4A, A_PWR1 := 0x5C, A_PWR2 := 0x74, A_EN1 := 0x54, A_EN2 := 0x6C, A_ENT := 0x84 }

/-- `P_BUS_MODE` (R7, D12): clock idle high, sample on the trailing edge, most significant bit first. -/
def referenceBusMode : BusMode :=
  { polarity := .idleHigh, phase := .sampleTrailing, bitOrder := .msbFirst }

/-- The configuration of `State.reset`: the defaults of R6, R7 and R81. DESIGN CHOICE (assumption 2): R6 gives the pins and
the bus clock no default; they are pins 0, 1 and 2, the sync pin present, and the greatest clock allowed. -/
def referenceConfig : Config :=
  { P_RST_PIN := ⟨0⟩
    P_CS_PIN := ⟨1⟩
    P_SYNC_PIN := some ⟨2⟩
    P_LINE_FREQ_HZ := 50
    P_LATCH_STRATEGY := .PIN
    P_BUS_CLOCK_HZ := 12000000
    P_ADDR_MAP := referenceAddrMap
    P_TIME_UNIT := .milliseconds
    P_NUMERICS := .EXACT
    P_ENERGY_CH_PATH := .NORMAL
    P_BUS_MODE := referenceBusMode }

end Sys2Proof.Machine
end

