-- ==== Sys2Proof/Machine/State.lean ====
section
/-! DEFINITION. The state of the engine (R20), under the spec's own element names, with the environment's inputs that the model
holds as plain data, and the state after reset (R270). -/

namespace Sys2Proof.Machine

/-- The completion codes of R240. Codes 0x08 to 0xFF are never written, so they are no constructors. -/
inductive Status where
  | OK
  | INVALID_CHANNEL
  | ILLEGAL_OPCODE
  | ILLEGAL_OPERAND
  | NOT_READY
  | INVALID_CAL
  | BAD_LENGTH
  | LATCH_UNAVAILABLE
  deriving DecidableEq, Repr

/-- What the engine last did to a pin (R30): `Z`, `OUT(?)` (`out none`) or `OUT(lvl)` (`out (some lvl)`). -/
inductive PinState where
  | Z
  | out (lvl : Option Level)
  deriving DecidableEq, Repr

/-- `PIN[CS]`, `PIN[RST]` and `PIN[SYNC]` (R30). -/
structure Pins where
  CS   : PinState
  RST  : PinState
  SYNC : PinState
  deriving DecidableEq, Repr

/-- An index of the calibration table: channel 0, 1 or 2 (R25). -/
inductive Chan where
  | ch0
  | ch1
  | ch2
  deriving DecidableEq, Repr

/-- One multiplier for each channel: `CAL_V[0..2]` or `CAL_I[0..2]` (R25). -/
structure CalRow where
  c0 : NumVal
  c1 : NumVal
  c2 : NumVal
  deriving DecidableEq, Repr

/-- The payload buffer `PB[0..3]`, byte 0 the first received (R29, R52). -/
structure Payload where
  b0 : Byte
  b1 : Byte
  b2 : Byte
  b3 : Byte
  deriving DecidableEq, Repr

/-- A command string at the port: never empty (R84), so an opcode byte and the bytes after it (R70). -/
structure Command where
  opcode : Byte
  rest   : List Byte
  deriving DecidableEq, Repr

/-- The bytes of a command in the order sent (R70). -/
def Command.bytes (c : Command) : List Byte := c.opcode :: c.rest

/-- A result register the host reads (R26 to R29), `PB` by byte. -/
inductive ResultReg where
  | STATUS
  | RVAL0
  | RVAL1
  | RINT
  | PB (i : Fin 4)
  deriving DecidableEq, Repr

/-- Why the model stops. No command's meaning stops; both reasons are the spec's own. -/
inductive Fault where
  /-- Raised by `step` while `BUSY` is true between steps, that is, after an interface action that the platform never
  completes: "A model gives the engine no step past an incomplete action" (R248, I12) and the port accepts no command (R21,
  I13). Safe: the spec gives no next step. DEDUCED (assumption 9). -/
  | stuck
  /-- Raised by `hostRead` on a result register that no command has written: R34 "A host read of an unwritten result register,
  or a rule that reads an unwritten element, faults in the model rather than returning any value" (R26, R270, D4 and I1 say the
  same). Safe: the spec gives no value. No command reads such a register. -/
  | unwrittenRead (r : ResultReg)
  deriving DecidableEq, Repr

/-- Why the model declines an instruction. -/
inductive Refusal where
  /-- An instruction without a meaning yet, raised only by `exec`'s own arms. No arm raises it: every instruction has its
  meaning. Safe. -/
  | notModelled (mnemonic : String)
  deriving DecidableEq, Repr

/-- The state. The first block is the configuration, which no step changes (R6). The second is the state of R20 under the
spec's names; `none` in a result register is the spec's "unwritten" (R34). The third is the hidden step position of R36. The
last is the environment's: what the host has presented, what the IC will answer, what the platform will complete. -/
@[ext]
structure State where
  /-- The configuration of R6 and R7: "not state", and never changed. DESIGN CHOICE (assumption 3). -/
  cfg : Config
  /-- R21. -/
  BUSY : Bool
  /-- R22. -/
  READY : Bool
  /-- R23. -/
  AUTO_LATCH : Bool
  /-- R24. -/
  CRC_EN : Bool
  /-- `CAL_V[0..2]` (R25). -/
  CAL_V : CalRow
  /-- `CAL_I[0..2]` (R25). -/
  CAL_I : CalRow
  /-- R26. -/
  STATUS : Option Status
  /-- R27. -/
  RVAL0 : Option NumVal
  /-- R27. -/
  RVAL1 : Option NumVal
  /-- R28. -/
  RINT : Option Int
  /-- `PB[0..3]` (R29). -/
  PB : Option Payload
  /-- `PIN[CS]`, `PIN[RST]`, `PIN[SYNC]` (R30). -/
  PIN : Pins
  /-- R31. -/
  BUS_BEGUN : Bool
  /-- R32. -/
  IN_TXN : Bool
  /-- R33, oldest event first. -/
  TRACE : List Event
  /-- The hidden step position, none between commands (R36). DEDUCED (assumption 10). -/
  SEQ : Option Nat
  /-- The commands the host has presented at the port, oldest first; the port holds each until `BUSY` falls (R21).
  DESIGN CHOICE (assumption 5). -/
  PORT : List Command
  /-- The meter IC's next answers, first first; when the list is empty the oracle of R128 answers.
  DESIGN CHOICE (assumption 7). -/
  IC : List Byte
  /-- How many more interface actions the platform completes before it stalls for ever, none when it completes all (R248).
  DESIGN CHOICE (assumption 8). -/
  STALL : Option Nat
  deriving DecidableEq, Repr

/-- The state after reset under a configuration, element by element as in R270. Nothing is at the port, no answer is scripted
and the platform does its duty (R277). -/
def State.resetWith (c : Config) : State :=
  { cfg := c
    BUSY := false
    READY := false
    AUTO_LATCH := false
    CRC_EN := false
    CAL_V := ⟨numOne c.P_NUMERICS, numOne c.P_NUMERICS, numOne c.P_NUMERICS⟩
    CAL_I := ⟨numOne c.P_NUMERICS, numOne c.P_NUMERICS, numOne c.P_NUMERICS⟩
    STATUS := none
    RVAL0 := none
    RVAL1 := none
    RINT := none
    PB := none
    PIN := ⟨.Z, .Z, .Z⟩
    BUS_BEGUN := false
    IN_TXN := false
    TRACE := []
    SEQ := none
    PORT := []
    IC := []
    STALL := none }

/-- The state after reset (R270) under the reference configuration. -/
def State.reset : State := State.resetWith referenceConfig

end Sys2Proof.Machine
end

