-- ==== Sys2Proof/Machine/Operands.lean ====
section
/-! DEFINITION. How operand values select things: channels (R192), quantities (R72), the address map (R190) and the
calibration table (R25). -/

namespace Sys2Proof.Machine

/-- A measured quantity (R72 `qty`). -/
inductive Quantity where
  | RMS
  | POWER
  | ENERGY
  deriving DecidableEq, Repr

/-- A quantity byte: 0 = RMS, 1 = POWER, 2 = ENERGY, none for an illegal one (R72). -/
def quantityOf (qty : Byte) : Option Quantity :=
  if qty = 0 then some .RMS
  else if qty = 1 then some .POWER
  else if qty = 2 then some .ENERGY
  else none

/-- A boolean byte: 0x00 or 0x01, none for an illegal one (R72). -/
def flagOf (flag : Byte) : Option Bool :=
  if flag = 0 then some false
  else if flag = 1 then some true
  else none

/-- A channel byte as an index of the calibration table: 0, 1 or 2 (R192, the `CONV_*` row). -/
def chanOf (ch : Byte) : Option Chan :=
  if ch = 0 then some .ch0
  else if ch = 1 then some .ch1
  else if ch = 2 then some .ch2
  else none

/-- The legal channels of a measurement read of a quantity (R192): 1 and 2, and also 0 for energy. -/
def readChan (q : Quantity) (ch : Byte) : Option Chan :=
  match q, chanOf ch with
  | .ENERGY, c => c
  | _, some .ch0 => none
  | _, c => c

/-- `addrOf(ch, qty)` (R190), none for "no such register". -/
def addrOf (m : AddrMap) (ch : Byte) (q : Quantity) : Option Byte :=
  match q, chanOf ch with
  | .RMS, some .ch1 => some m.A_RMS1
  | .RMS, some .ch2 => some m.A_RMS2
  | .POWER, some .ch1 => some m.A_PWR1
  | .POWER, some .ch2 => some m.A_PWR2
  | .ENERGY, some .ch0 => some m.A_ENT
  | .ENERGY, some .ch1 => some m.A_EN1
  | .ENERGY, some .ch2 => some m.A_EN2
  | _, _ => none

/-- The entry of a calibration row for a channel (R25). -/
def CalRow.get (r : CalRow) : Chan → NumVal
  | .ch0 => r.c0
  | .ch1 => r.c1
  | .ch2 => r.c2

/-- A calibration row that holds one multiplier for every channel: what `SET_CAL` writes (R220). -/
def CalRow.uniform (k : NumVal) : CalRow := ⟨k, k, k⟩

end Sys2Proof.Machine
end

