-- ==== Sys2Proof/Machine/Ops.lean ====
section
/-! DEFINITION. The operations every command is made of: the interface actions of R11 and their effect on `PIN`, `BUS_BEGUN`,
`IN_TXN` and `TRACE`; the ways a command ends (`ok`, `raise`, R10), which is the engine's whole error mechanism (R241, R246);
and how a sequence of actions stops when the platform never completes one (R248). -/

namespace Sys2Proof.Machine

/-- What one step or one command answers. -/
abbrev Outcome := Host.Outcome State Fault Refusal

/-! ## A sequence of interface actions -/

/-- The result of running interface actions: they all completed, with a value and the state after them, or the platform never
completed one, with the state in which the engine stays (R248). -/
inductive Flow (α : Type) where
  | on (a : α) (s : State)
  | hung (s : State)

/-- First one sequence, then another that uses its value: each action completes before the next begins (R62). -/
def Flow.andThen {α β : Type} (f : Flow α) (k : α → State → Flow β) : Flow β :=
  match f with
  | .on a s => k a s
  | .hung s => .hung s

/-- Record a performed action: its event goes to the end of `TRACE` (R33), the step position moves on (R36), and the platform
has one action fewer to complete. -/
def State.perform (s : State) (e : Event) : State :=
  { s with TRACE := s.TRACE ++ [e], SEQ := s.SEQ.map (· + 1), STALL := s.STALL.map (· - 1) }

/-- The platform never completes the next action (R248). -/
def State.stalled (s : State) : Bool := decide (s.STALL = some 0)

/-- One interface action: if the platform completes it, its event is recorded and it has its effect `f`; if not, nothing of it
is seen and the engine goes no further (R248). DESIGN CHOICE (assumption 8). -/
def act (e : Event) (f : State → State) (s : State) : Flow Unit :=
  if s.stalled then .hung s else .on () (f (s.perform e))

/-! ## GPIO, delays and the bus -/

/-- Change what `PIN` records of the platform pin `pin`: of each of the three pins that is that pin (R30).
DEDUCED (assumption 13). -/
def Pins.update (c : Config) (pin : PinId) (f : PinState → PinState) (p : Pins) : Pins :=
  { CS := if c.P_CS_PIN = pin then f p.CS else p.CS
    RST := if c.P_RST_PIN = pin then f p.RST else p.RST
    SYNC := if c.P_SYNC_PIN = some pin then f p.SYNC else p.SYNC }

/-- `GpioCfg` "moves `Z` to `OUT(?)` and leaves an `OUT(lvl)` unchanged" (R30). -/
def PinState.configure : PinState → PinState
  | .Z => .out none
  | .out lvl => .out lvl

/-- Set what `PIN` records of a pin. -/
def State.changePin (pin : PinId) (f : PinState → PinState) (s : State) : State :=
  { s with PIN := s.PIN.update s.cfg pin f }

/-- `GpioCfg(pin)` (R11, R30). -/
def gpioCfg (pin : PinId) (s : State) : Flow Unit :=
  act (.CFG pin) (State.changePin pin PinState.configure) s

/-- `GpioWr(pin, lvl)` "sets `OUT(lvl)`" (R11, R30). -/
def gpioWr (pin : PinId) (lvl : Level) (s : State) : Flow Unit :=
  act (.WR pin lvl) (State.changePin pin (fun _ => .out (some lvl))) s

/-- `DelayMs(n)` (R11, R278): no state but the trace. -/
def delayMs (n : Nat) (s : State) : Flow Unit := act (.DMS n) id s

/-- `DelayUs(n)` (R11, R278): no state but the trace. -/
def delayUs (n : Nat) (s : State) : Flow Unit := act (.DUS n) id s

/-- `BusBegin()` (R11), after which `BUS_BEGUN` is true (R31). -/
def busBegin (s : State) : Flow Unit := act .BEGIN (fun s => { s with BUS_BEGUN := true }) s

/-- `BUSCFG = (P_BUS_MODE, P_BUS_CLOCK_HZ)` (R103). -/
def busCfg (c : Config) : BusCfg := { mode := c.P_BUS_MODE, clockHz := c.P_BUS_CLOCK_HZ }

/-- `TxnBegin(BUSCFG)`, after which `IN_TXN` is true (R120). -/
def txnBegin (s : State) : Flow Unit :=
  act (.TB (busCfg s.cfg)) (fun s => { s with IN_TXN := true }) s

/-- `TxnEnd()`, after which `IN_TXN` is false (R120). -/
def txnEnd (s : State) : Flow Unit := act .TE (fun s => { s with IN_TXN := false }) s

/-- The byte the IC answers to `Xfer(b)`: the next scripted answer, or the oracle's, which sees the whole trace (R128).
DESIGN CHOICE (assumption 7). -/
def icAnswer (s : State) (b : Byte) : Byte :=
  match s.IC with
  | r :: _ => r
  | [] => Config.icOracle s.TRACE b

/-- `Xfer(b) -> r` (R11). -/
def xfer (b : Byte) (s : State) : Flow Byte :=
  (act (.X b (icAnswer s b)) (fun t => { t with IC := t.IC.tail }) s).andThen fun _ t => .on (icAnswer s b) t

/-- The transfers of a byte string in order, with the bytes received (R120). -/
def xfers : List Byte → State → Flow (List Byte)
  | [], s => .on [] s
  | b :: bs, s =>
    (xfer b s).andThen fun r s =>
    (xfers bs s).andThen fun rs s =>
    .on (r :: rs) s

/-! ## The end of a command -/

/-- The end of every command (R21, R26): `STATUS` is written, last of all, `BUSY` falls and the step position is gone. -/
def State.complete (s : State) (c : Status) : State :=
  { s with STATUS := some c, BUSY := false, SEQ := none }

/-- `ok` (R10). -/
def ok (s : State) : Outcome := .next (s.complete .OK)

/-- `raise S` (R10), the one way an error is reported: "An error saves no state, changes no mode, switches to no stack and
jumps to no vector. It ends the command" (R246), and nothing else is written (R241). -/
def raise (c : Status) (s : State) : Outcome := .next (s.complete c)

/-- `RVAL0 <- -1; raise INVALID_CHANNEL`, the invalid-channel outcome of the single-value commands (R198, R241). -/
def raiseSentinel (s : State) : Outcome :=
  raise .INVALID_CHANNEL { s with RVAL0 := some (sentinel s.cfg.P_NUMERICS) }

/-- A command that ends after its interface actions: `ok` when they completed; when the platform never completes one, the
engine stays where it is, `BUSY`, with no status written (R248). -/
def Flow.finish (f : Flow Unit) : Outcome :=
  match f with
  | .on _ s => ok s
  | .hung s => .next s

end Sys2Proof.Machine
end

