-- ==== Sys2Proof/Machine/Flags.lean ====
section
/-! DEFINITION. The status codes (R240) and the checks on the state that decide one (R242). The engine has no arithmetic
flags; `STATUS` is its one record of how a command went. -/

namespace Sys2Proof.Machine

/-- The 8-bit value of a completion code (R240). -/
def Status.code : Status → Byte
  | .OK => 0x00
  | .INVALID_CHANNEL => 0x01
  | .ILLEGAL_OPCODE => 0x02
  | .ILLEGAL_OPERAND => 0x03
  | .NOT_READY => 0x04
  | .INVALID_CAL => 0x05
  | .BAD_LENGTH => 0x06
  | .LATCH_UNAVAILABLE => 0x07

/-- The first error of a list in priority order, none when no check fails (R242). -/
def firstError : List (Option Status) → Option Status
  | [] => none
  | some c :: _ => some c
  | none :: rest => firstError rest

/-- `if not READY: raise NOT_READY` (R22, R240). -/
def readyError (s : State) : Option Status := if s.READY then none else some .NOT_READY

/-- A latch is needed, the strategy is `PIN` and there is no sync pin (R140, R240). -/
def latchError (c : Config) : Option Status :=
  match c.P_LATCH_STRATEGY, c.P_SYNC_PIN with
  | .PIN, none => some .LATCH_UNAVAILABLE
  | _, _ => none

/-- A measurement read latches exactly when it is a latching one and `AUTO_LATCH` is false (R142). -/
def needsLatch (latches : Bool) (s : State) : Bool := latches && !s.AUTO_LATCH

/-- The state checks of a measurement read, in the order of R242 and R198. -/
def readError (latches : Bool) (s : State) : Option Status :=
  firstError [readyError s, if needsLatch latches s then latchError s.cfg else none]

end Sys2Proof.Machine
end

