-- ==== Sys2Proof/Machine/Bitfield.lean ====
section
/-! DEFINITION. The Bit-Field Decoder (R150 to R154): the four extraction functions, each the spec's own formula over the
mathematical integers (R9), and the `FIELD_*` commands. -/

namespace Sys2Proof.Machine

/-- `field_0_14([b0,b1,b2,b3]) = ((b1 & 0x7F) << 8) | b0` (R150). -/
def field_0_14 (p : Payload) : Nat := ((p.b1.toNat &&& 0x7F) <<< 8) ||| p.b0.toNat

/-- `field_15_32([b0,b1,b2,b3]) = ((b3 << 16) | (b2 << 8) | b1) >> 7` (R151). -/
def field_15_32 (p : Payload) : Nat :=
  ((p.b3.toNat <<< 16) ||| (p.b2.toNat <<< 8) ||| p.b1.toNat) >>> 7

/-- `field_u32([b0,b1,b2,b3]) = (b3 << 24) | (b2 << 16) | (b1 << 8) | b0` (R153). -/
def field_u32 (p : Payload) : Nat :=
  (p.b3.toNat <<< 24) ||| (p.b2.toNat <<< 16) ||| (p.b1.toNat <<< 8) ||| p.b0.toNat

/-- `sext_32(v)` (R9): `v - 2^32` if bit 31 of `v` is 1, else `v`. -/
def sext32 (v : Nat) : Int := if v.testBit 31 then (v : Int) - 2 ^ 32 else v

/-- `field_0_28([b0,b1,b2,b3]) = sext_32((b3 << 24) | (b2 << 16) | (b1 << 8) | b0)` (R152). -/
def field_0_28 (p : Payload) : Int :=
  sext32 ((p.b3.toNat <<< 24) ||| (p.b2.toNat <<< 16) ||| (p.b1.toNat <<< 8) ||| p.b0.toNat)

/-- `FIELD_0_14 b0, b1, b2, b3` (R150). -/
def execField014 (b0 b1 b2 b3 : Byte) (s : State) : Outcome :=
  ok { s with RINT := some (field_0_14 ⟨b0, b1, b2, b3⟩) }

/-- `FIELD_15_32 b0, b1, b2, b3` (R151). -/
def execField1532 (b0 b1 b2 b3 : Byte) (s : State) : Outcome :=
  ok { s with RINT := some (field_15_32 ⟨b0, b1, b2, b3⟩) }

/-- `FIELD_0_28 b0, b1, b2, b3` (R152). -/
def execField028 (b0 b1 b2 b3 : Byte) (s : State) : Outcome :=
  ok { s with RINT := some (field_0_28 ⟨b0, b1, b2, b3⟩) }

/-- `FIELD_U32 b0, b1, b2, b3` (R153). -/
def execFieldU32 (b0 b1 b2 b3 : Byte) (s : State) : Outcome :=
  ok { s with RINT := some (field_u32 ⟨b0, b1, b2, b3⟩) }

end Sys2Proof.Machine
end

