-- ==== Sys2Proof/Machine/Conversion.lean ====
section
/-! DEFINITION. The Conversion Engine (R170 to R177): the LSB weights, the four formulas in the written order, and the `CONV_*`
commands. -/

namespace Sys2Proof.Machine

/-- `KV` = 0.0354840440 (R170). -/
def KV : Rat := mkRat 35484044 1000000000

/-- `KI_DIV` = 24 (R170). -/
def KI_DIV : Int := 24

/-- `KI` = 0.2143 (R170). -/
def KI : Rat := mkRat 2143 10000

/-- `KP` = 0.0001217 (R170). -/
def KP : Rat := mkRat 1217 10000000

/-- `KE` = 0.00000000886162 (R170). -/
def KE : Rat := mkRat 886162 100000000000000

/-- `convV(raw, ch) = (toNum(raw) * lit(KV)) * CAL_V[ch]` (R172), with `cal` the entry of the table. -/
def convV (m : Numerics) (cal : NumVal) (raw : Int) : NumVal :=
  numMul (numMul (toNum m raw) (lit m KV)) cal

/-- `convI(raw, ch) = ((toNum(raw) / toNum(KI_DIV)) * lit(KI)) * CAL_I[ch]` (R173). -/
def convI (m : Numerics) (cal : NumVal) (raw : Int) : NumVal :=
  numMul (numMul (numDiv (toNum m raw) (toNum m KI_DIV)) (lit m KI)) cal

/-- `convP(raw, ch) = ((toNum(raw) * lit(KP)) * CAL_V[ch]) * CAL_I[ch]` (R174). -/
def convP (m : Numerics) (calV calI : NumVal) (raw : Int) : NumVal :=
  numMul (numMul (numMul (toNum m raw) (lit m KP)) calV) calI

/-- `convE(raw) = toNum(raw) * lit(KE)` (R175): "no calibration applied". -/
def convE (m : Numerics) (raw : Int) : NumVal := numMul (toNum m raw) (lit m KE)

/-- `CONV_V ch, raw15` (R172). -/
def execConvV (ch : Byte) (raw15 : BitVec 16) (s : State) : Outcome :=
  if 0x7FFF < raw15.toNat then raise .ILLEGAL_OPERAND s
  else
    match chanOf ch with
    | none => raiseSentinel s
    | some c => ok { s with RVAL0 := some (convV s.cfg.P_NUMERICS (s.CAL_V.get c) raw15.toNat) }

/-- `CONV_I ch, raw17` (R173). -/
def execConvI (ch : Byte) (raw17 : BitVec 24) (s : State) : Outcome :=
  if 0x1FFFF < raw17.toNat then raise .ILLEGAL_OPERAND s
  else
    match chanOf ch with
    | none => raiseSentinel s
    | some c => ok { s with RVAL0 := some (convI s.cfg.P_NUMERICS (s.CAL_I.get c) raw17.toNat) }

/-- `CONV_P ch, raws32` (R174): the operand is `sext_32` of its bytes (R72). -/
def execConvP (ch : Byte) (raws32 : BitVec 32) (s : State) : Outcome :=
  match chanOf ch with
  | none => raiseSentinel s
  | some c =>
    ok { s with RVAL0 := some (convP s.cfg.P_NUMERICS (s.CAL_V.get c) (s.CAL_I.get c) (sext32 raws32.toNat)) }

/-- `CONV_E rawu32` (R175): no channel, and the calibration table is not read. -/
def execConvE (rawu32 : BitVec 32) (s : State) : Outcome :=
  ok { s with RVAL0 := some (convE s.cfg.P_NUMERICS rawu32.toNat) }

end Sys2Proof.Machine
end

