-- ==== Sys2Proof/Machine/Framer.lean ====
section
/-! DEFINITION. The Frame Transport (R120 to R128): transactions, the read path and its settle variant, and the commands
`SEND_FRAME`, `READ_FRAME` and `READ_FRAME_SETTLED`. -/

namespace Sys2Proof.Machine

/-- `TXN(s[0..n-1]) -> r[0..n-1]` (R120). -/
def txn (bytes : List Byte) (s : State) : Flow (List Byte) :=
  (txnBegin s).andThen fun _ s =>
  (gpioWr s.cfg.P_CS_PIN .LOW s).andThen fun _ s =>
  (xfers bytes s).andThen fun r s =>
  (gpioWr s.cfg.P_CS_PIN .HIGH s).andThen fun _ s =>
  (txnEnd s).andThen fun _ s =>
  .on r s

/-- `SENDF(ra, wa, dl, dh)` (R121): "responses discarded". -/
def sendf (f : FrameBytes) (s : State) : Flow Unit :=
  (txn [f.ra, f.wa, f.dl, f.dh] s).andThen fun _ s => .on () s

/-- The address frame `[a, 0xFF, 0xFF, 0xFF]` of a read (R76). -/
def addressFrame (a : Byte) : FrameBytes := ⟨a, P_FILLER, P_FILLER, P_FILLER⟩

/-- Four received bytes as a payload, the first received the least significant (R52, R123). -/
def payloadOf (r : List Byte) : Payload := ⟨r.getD 0 0, r.getD 1 0, r.getD 2 0, r.getD 3 0⟩

/-- A read: an address transaction, then a capture transaction of `n` filler bytes, of which the last 4 received are the
payload; it is left in `PB` (R123, R125). -/
def readPath (n : Nat) (a : Byte) (s : State) : Flow Payload :=
  (sendf (addressFrame a) s).andThen fun _ s =>
  (txn (List.replicate n P_FILLER) s).andThen fun r s =>
  .on (payloadOf (r.drop (n - 4))) { s with PB := some (payloadOf (r.drop (n - 4))) }

/-- `READF(a)` (R123): the capture transaction has 4 bytes. -/
def readf (a : Byte) (s : State) : Flow Payload := readPath 4 a s

/-- `SETTLEF(a)` (R125): the capture transaction has four exchanges of 4 bytes, and "only the last 4 bytes" are kept. -/
def settlef (a : Byte) (s : State) : Flow Payload := readPath (P_SETTLE_EXCHANGES * 4) a s

/-- `SEND_FRAME ra, wa, dl, dh` (R122). -/
def execSendFrame (ra wa dl dh : Byte) (s : State) : Outcome :=
  match readyError s with
  | some c => raise c s
  | none => (sendf ⟨ra, wa, dl, dh⟩ s).finish

/-- `READ_FRAME addr` (R124). -/
def execReadFrame (addr : Byte) (s : State) : Outcome :=
  match readyError s with
  | some c => raise c s
  | none => ((readf addr s).andThen fun _ s => .on () s).finish

/-- `READ_FRAME_SETTLED addr` (R126). -/
def execReadFrameSettled (addr : Byte) (s : State) : Outcome :=
  match readyError s with
  | some c => raise c s
  | none => ((settlef addr s).andThen fun _ s => .on () s).finish

end Sys2Proof.Machine
end

