-- ==== Sys2Proof/Machine/Latch.lean ====
section
/-! DEFINITION. The Latch Controller (R140 to R144) and `LATCH`. -/

namespace Sys2Proof.Machine

/-- `LATCHSEQ` (R140). With strategy `PIN` and no sync pin there is nothing to toggle; its callers have raised
`LATCH_UNAVAILABLE` before they come here (R141, R198). DESIGN CHOICE (assumption 25). -/
def latchSeq (s : State) : Flow Unit :=
  match s.cfg.P_LATCH_STRATEGY, s.cfg.P_SYNC_PIN with
  | .PIN, none => .on () s
  | .PIN, some pin =>
    (gpioWr pin .LOW s).andThen fun _ s =>
    (delayUs 4 s).andThen fun _ s =>
    gpioWr pin .HIGH s
  | .SW_BITS frame, _ => sendf frame s

/-- `LATCH` (R141): it ignores `AUTO_LATCH`. -/
def execLatch (s : State) : Outcome :=
  match firstError [readyError s, latchError s.cfg] with
  | some c => raise c s
  | none => (latchSeq s).finish

end Sys2Proof.Machine
end

