-- ==== Sys2Proof/Machine/Measurement.lean ====
section
/-! DEFINITION. The Register/Address Map command and the measurement reads (R190 to R200). -/

namespace Sys2Proof.Machine

/-- `ADDR_LOOKUP ch, qty` (R191): the operand check comes before the channel's, and no sentinel is written. -/
def execAddrLookup (ch qty : Byte) (s : State) : Outcome :=
  match quantityOf qty with
  | none => raise .ILLEGAL_OPERAND s
  | some q =>
    match addrOf s.cfg.P_ADDR_MAP ch q with
    | none => raise .INVALID_CHANNEL s
    | some a => ok { s with RINT := some a.toNat }

/-- The latch a measurement read performs itself, if it performs one (R142). -/
def latchIfNeeded (latches : Bool) (s : State) : Flow Unit :=
  if needsLatch latches s then latchSeq s else .on () s

/-- A measurement read (R198, R193 to R197): the prologue's checks in their order, the latch, then the read's own body with
the calibration index and the register address. `latches` and `sent` are the prologue's `L` and `SENT`. -/
def measureRead (q : Quantity) (latches sent : Bool) (ch : Byte) (body : Chan → Byte → State → Flow Unit) (s : State) :
    Outcome :=
  match readChan q ch, addrOf s.cfg.P_ADDR_MAP ch q with
  | some c, some a =>
    match readError latches s with
    | some e => raise e s
    | none => ((latchIfNeeded latches s).andThen fun _ s => body c a s).finish
  | _, _ => if sent then raiseSentinel s else raise .INVALID_CHANNEL s

/-- After the read of R193: both values from one payload. -/
def readRmsBody (c : Chan) (a : Byte) (s : State) : Flow Unit :=
  (readf a s).andThen fun p s =>
  .on () { s with
    RVAL0 := some (convV s.cfg.P_NUMERICS (s.CAL_V.get c) (field_0_14 p))
    RVAL1 := some (convI s.cfg.P_NUMERICS (s.CAL_I.get c) (field_15_32 p)) }

/-- After the read of R194: the voltage. -/
def readRmsVBody (c : Chan) (a : Byte) (s : State) : Flow Unit :=
  (readf a s).andThen fun p s =>
  .on () { s with RVAL0 := some (convV s.cfg.P_NUMERICS (s.CAL_V.get c) (field_0_14 p)) }

/-- After the read of R195: the current. -/
def readRmsIBody (c : Chan) (a : Byte) (s : State) : Flow Unit :=
  (readf a s).andThen fun p s =>
  .on () { s with RVAL0 := some (convI s.cfg.P_NUMERICS (s.CAL_I.get c) (field_15_32 p)) }

/-- After the read of R196: the active power. -/
def readPowerBody (c : Chan) (a : Byte) (s : State) : Flow Unit :=
  (readf a s).andThen fun p s =>
  .on () { s with RVAL0 := some (convP s.cfg.P_NUMERICS (s.CAL_V.get c) (s.CAL_I.get c) (field_0_28 p)) }

/-- Which path an energy read takes (R197): the settle variant for the total, and for the channels too when
`P_ENERGY_CH_PATH` says so. -/
def energyPath (c : Chan) (a : Byte) (s : State) : Flow Payload :=
  if c = .ch0 ∨ s.cfg.P_ENERGY_CH_PATH = .SETTLED then settlef a s else readf a s

/-- After the read of R197: the energy, without calibration. -/
def readEnergyBody (c : Chan) (a : Byte) (s : State) : Flow Unit :=
  (energyPath c a s).andThen fun p s =>
  .on () { s with RVAL0 := some (convE s.cfg.P_NUMERICS (field_u32 p)) }

/-- `READ_RMS ch` (R193): no sentinel on an invalid channel. -/
def execReadRms (ch : Byte) (s : State) : Outcome := measureRead .RMS true false ch readRmsBody s

/-- `READ_RMS_V ch` (R194). -/
def execReadRmsV (ch : Byte) (s : State) : Outcome := measureRead .RMS true true ch readRmsVBody s

/-- `READ_RMS_I ch` (R195). -/
def execReadRmsI (ch : Byte) (s : State) : Outcome := measureRead .RMS true true ch readRmsIBody s

/-- `READ_POWER ch` (R196). -/
def execReadPower (ch : Byte) (s : State) : Outcome := measureRead .POWER true true ch readPowerBody s

/-- `READ_ENERGY ch` (R197): it does not latch. -/
def execReadEnergy (ch : Byte) (s : State) : Outcome := measureRead .ENERGY false true ch readEnergyBody s

end Sys2Proof.Machine
end

