-- ==== Sys2Proof/Machine/Sequencer.lean ====
section
/-! DEFINITION. The Device Sequencer (R100 to R107): bring-up and `INIT`. -/

namespace Sys2Proof.Machine

/-- The toggles still to do of `SYNCTOGGLE` (R102): low, at least 2 ms, high, and at least 2 ms before the next one. -/
def syncToggle (pin : PinId) : Nat → State → Flow Unit
  | 0, s => .on () s
  | n + 1, s =>
    (gpioWr pin .LOW s).andThen fun _ s =>
    (delayMs 2 s).andThen fun _ s =>
    (gpioWr pin .HIGH s).andThen fun _ s =>
    (if n = 0 then Flow.on () s else delayMs 2 s).andThen fun _ s =>
    syncToggle pin n s

/-- `if P_SYNC_PIN != none:` an action on that pin (R101). -/
def onSyncPin (f : PinId → State → Flow Unit) (s : State) : Flow Unit :=
  match s.cfg.P_SYNC_PIN with
  | none => .on () s
  | some pin => f pin s

/-- `BRINGUP` (R101), action by action. -/
def bringup (s : State) : Flow Unit :=
  (gpioCfg s.cfg.P_CS_PIN s).andThen fun _ s =>
  (gpioCfg s.cfg.P_RST_PIN s).andThen fun _ s =>
  (onSyncPin gpioCfg s).andThen fun _ s =>
  (gpioWr s.cfg.P_CS_PIN .LOW s).andThen fun _ s =>
  (gpioWr s.cfg.P_RST_PIN .LOW s).andThen fun _ s =>
  (delayMs 35 s).andThen fun _ s =>
  (gpioWr s.cfg.P_RST_PIN .HIGH s).andThen fun _ s =>
  (delayMs 35 s).andThen fun _ s =>
  (gpioWr s.cfg.P_CS_PIN .HIGH s).andThen fun _ s =>
  (delayMs 2 s).andThen fun _ s =>
  (onSyncPin (fun pin => syncToggle pin P_SYNC_TOGGLES) s).andThen fun _ s =>
  (delayMs 2 s).andThen fun _ s =>
  (gpioWr s.cfg.P_CS_PIN .LOW s).andThen fun _ s =>
  (delayMs 5 s).andThen fun _ s =>
  (gpioWr s.cfg.P_CS_PIN .HIGH s).andThen fun _ s =>
  busBegin s

/-- `INIT` (R100): bring-up, then `READY <- true` and `RINT <- 1` (R104). It runs with `READY` false or true (R106). -/
def execInit (s : State) : Outcome :=
  ((bringup s).andThen fun _ s => .on () { s with READY := true, RINT := some 1 }).finish

end Sys2Proof.Machine
end

