-- ==== Sys2Proof/Machine/Settings.lean ====
section
/-! DEFINITION. The handle setters (R220 to R224). -/

namespace Sys2Proof.Machine

/-- `SET_CAL kv, ki` (R220): both multipliers strictly positive and finite, and then written for all three channels. -/
def execSetCal (kv ki : BitVec 32) (s : State) : Outcome :=
  if positiveFinite kv && positiveFinite ki then
    ok { s with
      CAL_V := CalRow.uniform (num32 s.cfg.P_NUMERICS kv)
      CAL_I := CalRow.uniform (num32 s.cfg.P_NUMERICS ki) }
  else raise .INVALID_CAL s

/-- `SET_AUTO_LATCH flag` (R221). -/
def execSetAutoLatch (flag : Byte) (s : State) : Outcome :=
  match flagOf flag with
  | some b => ok { s with AUTO_LATCH := b }
  | none => raise .ILLEGAL_OPERAND s

/-- `SET_CRC flag` (R222): stored, and read by no rule. -/
def execSetCrc (flag : Byte) (s : State) : Outcome :=
  match flagOf flag with
  | some b => ok { s with CRC_EN := b }
  | none => raise .ILLEGAL_OPERAND s

end Sys2Proof.Machine
end

