-- ==== Sys2Proof/Syntax.lean ====
section
/-! DEFINITION. The command set: one constructor for each row of the opcode map (R73), operands in the order of that table and
in the widths of R72. -/

namespace Sys2Proof

/-- A decoded command. Operand values that R72 calls illegal are representable: R84 decodes them, and the command's own rule
rejects them. -/
inductive Instr where
  /-- `INIT` (R100). -/
  | init
  /-- `SEND_FRAME ra, wa, dl, dh` (R122). -/
  | sendFrame (ra wa dl dh : Byte)
  /-- `READ_FRAME addr` (R124). -/
  | readFrame (addr : Byte)
  /-- `READ_FRAME_SETTLED addr` (R126). -/
  | readFrameSettled (addr : Byte)
  /-- `LATCH` (R141). -/
  | latch
  /-- `READ_RMS ch` (R193). -/
  | readRms (ch : Byte)
  /-- `READ_RMS_V ch` (R194). -/
  | readRmsV (ch : Byte)
  /-- `READ_RMS_I ch` (R195). -/
  | readRmsI (ch : Byte)
  /-- `READ_POWER ch` (R196). -/
  | readPower (ch : Byte)
  /-- `READ_ENERGY ch` (R197). -/
  | readEnergy (ch : Byte)
  /-- `ADDR_LOOKUP ch, qty` (R191). -/
  | addrLookup (ch qty : Byte)
  /-- `SET_CAL kv, ki`, two binary32 patterns (R220). -/
  | setCal (kv ki : BitVec 32)
  /-- `SET_AUTO_LATCH flag` (R221). -/
  | setAutoLatch (flag : Byte)
  /-- `SET_CRC flag` (R222). -/
  | setCrc (flag : Byte)
  /-- `FIELD_0_14 b0, b1, b2, b3` (R150). -/
  | field014 (b0 b1 b2 b3 : Byte)
  /-- `FIELD_15_32 b0, b1, b2, b3` (R151). -/
  | field1532 (b0 b1 b2 b3 : Byte)
  /-- `FIELD_0_28 b0, b1, b2, b3` (R152). -/
  | field028 (b0 b1 b2 b3 : Byte)
  /-- `FIELD_U32 b0, b1, b2, b3` (R153). -/
  | fieldU32 (b0 b1 b2 b3 : Byte)
  /-- `CONV_V ch, raw15`: the operand has 2 bytes (R172). -/
  | convV (ch : Byte) (raw15 : BitVec 16)
  /-- `CONV_I ch, raw17`: the operand has 3 bytes (R173). -/
  | convI (ch : Byte) (raw17 : BitVec 24)
  /-- `CONV_P ch, raws32` (R174). -/
  | convP (ch : Byte) (raws32 : BitVec 32)
  /-- `CONV_E rawu32` (R175). -/
  | convE (rawu32 : BitVec 32)
  deriving DecidableEq, Repr

end Sys2Proof
end

