-- ==== Sys2Proof/Machine/Dispatch.lean ====
section
/-! DEFINITION. One arm for each command of the opcode map (R73). -/

namespace Sys2Proof.Machine

def exec (i : Instr) (s : State) : Host.Outcome State Fault Refusal :=
  match i with
  | .init => Sys2Proof.Machine.execInit s
  | .sendFrame ra wa dl dh => Sys2Proof.Machine.execSendFrame ra wa dl dh s
  | .readFrame addr => Sys2Proof.Machine.execReadFrame addr s
  | .readFrameSettled addr => Sys2Proof.Machine.execReadFrameSettled addr s
  | .latch => Sys2Proof.Machine.execLatch s
  | .readRms ch => Sys2Proof.Machine.execReadRms ch s
  | .readRmsV ch => Sys2Proof.Machine.execReadRmsV ch s
  | .readRmsI ch => Sys2Proof.Machine.execReadRmsI ch s
  | .readPower ch => Sys2Proof.Machine.execReadPower ch s
  | .readEnergy ch => Sys2Proof.Machine.execReadEnergy ch s
  | .addrLookup ch qty => Sys2Proof.Machine.execAddrLookup ch qty s
  | .setCal kv ki => Sys2Proof.Machine.execSetCal kv ki s
  | .setAutoLatch flag => Sys2Proof.Machine.execSetAutoLatch flag s
  | .setCrc flag => Sys2Proof.Machine.execSetCrc flag s
  | .field014 b0 b1 b2 b3 => Sys2Proof.Machine.execField014 b0 b1 b2 b3 s
  | .field1532 b0 b1 b2 b3 => Sys2Proof.Machine.execField1532 b0 b1 b2 b3 s
  | .field028 b0 b1 b2 b3 => Sys2Proof.Machine.execField028 b0 b1 b2 b3 s
  | .fieldU32 b0 b1 b2 b3 => Sys2Proof.Machine.execFieldU32 b0 b1 b2 b3 s
  | .convV ch raw15 => Sys2Proof.Machine.execConvV ch raw15 s
  | .convI ch raw17 => Sys2Proof.Machine.execConvI ch raw17 s
  | .convP ch raws32 => Sys2Proof.Machine.execConvP ch raws32 s
  | .convE rawu32 => Sys2Proof.Machine.execConvE rawu32 s

end Sys2Proof.Machine
end

