-- ==== Sys2Proof/Decode.lean ====
section
/-! DEFINITION. The command encoding (R70 to R75, R84): the opcode map, a decoder total on any byte string, and the encoder
written from the same tables. -/

namespace Sys2Proof

/-- The 22 assigned opcodes by mnemonic (R73). -/
inductive Op where
  | INIT | SEND_FRAME | READ_FRAME | READ_FRAME_SETTLED | LATCH
  | READ_RMS | READ_RMS_V | READ_RMS_I | READ_POWER | READ_ENERGY | ADDR_LOOKUP
  | SET_CAL | SET_AUTO_LATCH | SET_CRC
  | FIELD_0_14 | FIELD_15_32 | FIELD_0_28 | FIELD_U32
  | CONV_V | CONV_I | CONV_P | CONV_E
  deriving DecidableEq, Repr

/-- The opcode byte, first column of R73. -/
def Op.code : Op → Byte
  | .INIT => 0x01 | .SEND_FRAME => 0x02 | .READ_FRAME => 0x03 | .READ_FRAME_SETTLED => 0x04 | .LATCH => 0x05
  | .READ_RMS => 0x10 | .READ_RMS_V => 0x11 | .READ_RMS_I => 0x12 | .READ_POWER => 0x13 | .READ_ENERGY => 0x14
  | .ADDR_LOOKUP => 0x15
  | .SET_CAL => 0x20 | .SET_AUTO_LATCH => 0x21 | .SET_CRC => 0x22
  | .FIELD_0_14 => 0x30 | .FIELD_15_32 => 0x31 | .FIELD_0_28 => 0x32 | .FIELD_U32 => 0x33
  | .CONV_V => 0x40 | .CONV_I => 0x41 | .CONV_P => 0x42 | .CONV_E => 0x43

/-- The command's length in bytes, opcode included, third column of R73. -/
def Op.length : Op → Nat
  | .INIT => 1 | .SEND_FRAME => 5 | .READ_FRAME => 2 | .READ_FRAME_SETTLED => 2 | .LATCH => 1
  | .READ_RMS => 2 | .READ_RMS_V => 2 | .READ_RMS_I => 2 | .READ_POWER => 2 | .READ_ENERGY => 2
  | .ADDR_LOOKUP => 3
  | .SET_CAL => 9 | .SET_AUTO_LATCH => 2 | .SET_CRC => 2
  | .FIELD_0_14 => 5 | .FIELD_15_32 => 5 | .FIELD_0_28 => 5 | .FIELD_U32 => 5
  | .CONV_V => 4 | .CONV_I => 5 | .CONV_P => 6 | .CONV_E => 5

/-- Every assigned opcode, in the order of R73. -/
def Op.all : List Op :=
  [.INIT, .SEND_FRAME, .READ_FRAME, .READ_FRAME_SETTLED, .LATCH,
   .READ_RMS, .READ_RMS_V, .READ_RMS_I, .READ_POWER, .READ_ENERGY, .ADDR_LOOKUP,
   .SET_CAL, .SET_AUTO_LATCH, .SET_CRC,
   .FIELD_0_14, .FIELD_15_32, .FIELD_0_28, .FIELD_U32,
   .CONV_V, .CONV_I, .CONV_P, .CONV_E]

/-- The opcode a first byte names, none for a reserved byte (R75). -/
def opOf (b : Byte) : Option Op := Op.all.find? (fun o => o.code == b)

/-- Why a byte string is no command (R84). -/
inductive DecodeError where
  /-- The first byte is not an assigned opcode (R75): `ILLEGAL_OPCODE`. -/
  | illegalOpcode
  /-- The length differs from the opcode's (R75): `BAD_LENGTH`. -/
  | badLength
  /-- The empty string: "An empty command string is not a command: the port never delivers one" (R84). -/
  | noCommand
  deriving DecidableEq, Repr

/-- Two operand bytes, least significant first (R71). -/
def le16 (b0 b1 : Byte) : BitVec 16 := b1 ++ b0

/-- Three operand bytes, least significant first (R71). -/
def le24 (b0 b1 b2 : Byte) : BitVec 24 := b2 ++ b1 ++ b0

/-- Four operand bytes, least significant first (R71). -/
def le32 (b0 b1 b2 b3 : Byte) : BitVec 32 := b3 ++ b2 ++ b1 ++ b0

/-! The formats of R74: each takes exactly its own number of operand bytes. -/

/-- `FMT_N`: no operand. -/
def fmtN (i : Instr) : List Byte → Option Instr
  | [] => some i
  | _ => none

/-- `FMT_B`: one byte. -/
def fmtB (f : Byte → Instr) : List Byte → Option Instr
  | [a] => some (f a)
  | _ => none

/-- `FMT_BB`: two bytes. -/
def fmtBB (f : Byte → Byte → Instr) : List Byte → Option Instr
  | [a, b] => some (f a b)
  | _ => none

/-- `FMT_W4`: four bytes. -/
def fmtW4 (f : Byte → Byte → Byte → Byte → Instr) : List Byte → Option Instr
  | [w0, w1, w2, w3] => some (f w0 w1 w2 w3)
  | _ => none

/-- `FMT_CR16`: a channel and a 2-byte operand. -/
def fmtCR16 (f : Byte → BitVec 16 → Instr) : List Byte → Option Instr
  | [ch, r0, r1] => some (f ch (le16 r0 r1))
  | _ => none

/-- `FMT_CR24`: a channel and a 3-byte operand. -/
def fmtCR24 (f : Byte → BitVec 24 → Instr) : List Byte → Option Instr
  | [ch, r0, r1, r2] => some (f ch (le24 r0 r1 r2))
  | _ => none

/-- `FMT_CR32`: a channel and a 4-byte operand. -/
def fmtCR32 (f : Byte → BitVec 32 → Instr) : List Byte → Option Instr
  | [ch, r0, r1, r2, r3] => some (f ch (le32 r0 r1 r2 r3))
  | _ => none

/-- `FMT_FF`: two 4-byte operands. -/
def fmtFF (f : BitVec 32 → BitVec 32 → Instr) : List Byte → Option Instr
  | [v0, v1, v2, v3, i0, i1, i2, i3] => some (f (le32 v0 v1 v2 v3) (le32 i0 i1 i2 i3))
  | _ => none

/-- The command of an opcode and its operand bytes, in the format R73 gives it; none when there are too few or too many. -/
def operands : Op → List Byte → Option Instr
  | .INIT => fmtN .init
  | .SEND_FRAME => fmtW4 .sendFrame
  | .READ_FRAME => fmtB .readFrame
  | .READ_FRAME_SETTLED => fmtB .readFrameSettled
  | .LATCH => fmtN .latch
  | .READ_RMS => fmtB .readRms
  | .READ_RMS_V => fmtB .readRmsV
  | .READ_RMS_I => fmtB .readRmsI
  | .READ_POWER => fmtB .readPower
  | .READ_ENERGY => fmtB .readEnergy
  | .ADDR_LOOKUP => fmtBB .addrLookup
  | .SET_CAL => fmtFF .setCal
  | .SET_AUTO_LATCH => fmtB .setAutoLatch
  | .SET_CRC => fmtB .setCrc
  | .FIELD_0_14 => fmtW4 .field014
  | .FIELD_15_32 => fmtW4 .field1532
  | .FIELD_0_28 => fmtW4 .field028
  | .FIELD_U32 => fmtW4 .fieldU32
  | .CONV_V => fmtCR16 .convV
  | .CONV_I => fmtCR24 .convI
  | .CONV_P => fmtCR32 .convP
  | .CONV_E => fmtW4 fun r0 r1 r2 r3 => .convE (le32 r0 r1 r2 r3)

/-- The decoding procedure of R84: first the opcode, then the length, then the operands. -/
def decode : List Byte → Except DecodeError Instr
  | [] => .error .noCommand
  | b :: rest =>
    match opOf b with
    | none => .error .illegalOpcode
    | some o =>
      if rest.length + 1 = o.length then
        match operands o rest with
        | some i => .ok i
        | none => .error .badLength
      else .error .badLength

/-- The opcode of a command (R73). -/
def Instr.op : Instr → Op
  | .init => .INIT
  | .sendFrame _ _ _ _ => .SEND_FRAME
  | .readFrame _ => .READ_FRAME
  | .readFrameSettled _ => .READ_FRAME_SETTLED
  | .latch => .LATCH
  | .readRms _ => .READ_RMS
  | .readRmsV _ => .READ_RMS_V
  | .readRmsI _ => .READ_RMS_I
  | .readPower _ => .READ_POWER
  | .readEnergy _ => .READ_ENERGY
  | .addrLookup _ _ => .ADDR_LOOKUP
  | .setCal _ _ => .SET_CAL
  | .setAutoLatch _ => .SET_AUTO_LATCH
  | .setCrc _ => .SET_CRC
  | .field014 _ _ _ _ => .FIELD_0_14
  | .field1532 _ _ _ _ => .FIELD_15_32
  | .field028 _ _ _ _ => .FIELD_0_28
  | .fieldU32 _ _ _ _ => .FIELD_U32
  | .convV _ _ => .CONV_V
  | .convI _ _ => .CONV_I
  | .convP _ _ => .CONV_P
  | .convE _ => .CONV_E

/-- Byte `k` of a multi-byte operand, byte 0 the least significant (R71). -/
def byteOf {n : Nat} (v : BitVec n) (k : Nat) : Byte := v.extractLsb' (8 * k) 8

/-- The operand bytes of a command in the order sent (R74). -/
def Instr.operandBytes : Instr → List Byte
  | .init => []
  | .sendFrame ra wa dl dh => [ra, wa, dl, dh]
  | .readFrame addr => [addr]
  | .readFrameSettled addr => [addr]
  | .latch => []
  | .readRms ch => [ch]
  | .readRmsV ch => [ch]
  | .readRmsI ch => [ch]
  | .readPower ch => [ch]
  | .readEnergy ch => [ch]
  | .addrLookup ch qty => [ch, qty]
  | .setCal kv ki =>
    [byteOf kv 0, byteOf kv 1, byteOf kv 2, byteOf kv 3, byteOf ki 0, byteOf ki 1, byteOf ki 2, byteOf ki 3]
  | .setAutoLatch flag => [flag]
  | .setCrc flag => [flag]
  | .field014 b0 b1 b2 b3 => [b0, b1, b2, b3]
  | .field1532 b0 b1 b2 b3 => [b0, b1, b2, b3]
  | .field028 b0 b1 b2 b3 => [b0, b1, b2, b3]
  | .fieldU32 b0 b1 b2 b3 => [b0, b1, b2, b3]
  | .convV ch r => [ch, byteOf r 0, byteOf r 1]
  | .convI ch r => [ch, byteOf r 0, byteOf r 1, byteOf r 2]
  | .convP ch r => [ch, byteOf r 0, byteOf r 1, byteOf r 2, byteOf r 3]
  | .convE r => [byteOf r 0, byteOf r 1, byteOf r 2, byteOf r 3]

/-- The byte string of a command: its opcode, then its operand bytes (R73, R74). -/
def encode (i : Instr) : List Byte := i.op.code :: i.operandBytes

/-! ## The opcode table's numbering -/

/-- The `k` bytes of a number, the least significant first: the table numbers bit 0 as the least significant bit of the first
byte, and the second byte is bits 15..8. -/
def bytesLE : Nat → Nat → List Byte
  | 0, _ => []
  | k + 1, w => BitVec.ofNat 8 w :: bytesLE k (w / 256)

/-- How many bytes the command of a table word has: the table's own bits in whole bytes, and every byte its opcode asks for
beyond them (those are zero). DESIGN CHOICE (assumption 21). -/
def tableLength (nbits w : Nat) : Nat :=
  max (max 1 (nbits / 8)) (match opOf (BitVec.ofNat 8 w) with | some o => o.length | none => 1)

/-- The byte string of a table word of `nbits` bits; every bit above `nbits` is 0. -/
def tableBytes (nbits w : Nat) : List Byte := bytesLE (tableLength nbits w) (w % 2 ^ nbits)

/-- The command the decoder reads from a word numbered as `spec/opcode_table.json` numbers it, none where it refuses. -/
def decodeTableWord (nbits w : Nat) : Option Instr :=
  match decode (tableBytes nbits w) with
  | .ok i => some i
  | .error _ => none

end Sys2Proof
end

