-- ==== Sys2Proof/Machine/Port.lean ====
section
/-! DEFINITION. The command port and the host's side of it (R21, R70, R84): presenting and accepting a command, rejecting one
that does not decode, and reading a result register. -/

namespace Sys2Proof.Machine

/-- The host presents a command; the port holds it behind those already there (R21, D3). -/
def hostIssue (c : Command) (s : State) : State := { s with PORT := s.PORT ++ [c] }

/-- The engine accepts the oldest command of the port: `BUSY` rises (R21) and the step position is at the first action
(R36). -/
def State.accept (s : State) (later : List Command) : State :=
  { s with PORT := later, BUSY := true, SEQ := some 0 }

/-- The status of a byte string that is no command (R75, R84). The empty string never reaches the port:
DESIGN CHOICE (assumption 20). -/
def decodeStatus : DecodeError → Status
  | .illegalOpcode => .ILLEGAL_OPCODE
  | .badLength => .BAD_LENGTH
  | .noCommand => .BAD_LENGTH

/-- A command that does not decode ends with its status "and no other effect" (R75). -/
def rejectCommand (e : DecodeError) (s : State) : Outcome := raise (decodeStatus e) s

/-- The command of a word numbered as the opcode table numbers it. -/
def tableCommand (nbits w : Nat) : Command :=
  match tableBytes nbits w with
  | b :: rest => ⟨b, rest⟩
  | [] => ⟨BitVec.ofNat 8 w, []⟩

/-- Put a command first at the port of an engine that is free to accept it. -/
def State.present (s : State) (c : Command) : State := { s with PORT := c :: s.PORT, BUSY := false, SEQ := none }

/-- What the host reads from a result register (R26 to R29). -/
inductive HostValue where
  | status (code : Byte)
  | num (v : NumVal)
  | int (v : Int)
  | byte (b : Byte)
  deriving DecidableEq, Repr

/-- Byte `i` of the payload buffer (R29). -/
def Payload.get (p : Payload) (i : Fin 4) : Byte :=
  match i with
  | 0 => p.b0
  | 1 => p.b1
  | 2 => p.b2
  | 3 => p.b3

/-- The value of a result register, or the fault of R34 when nothing has written it. -/
def readOr (r : ResultReg) (v : Option HostValue) : Host.Outcome HostValue Fault Refusal :=
  match v with
  | some x => .next x
  | none => .fault (.unwrittenRead r)

/-- A host read of a result register. It changes no state (R59), so it answers the value alone; an unwritten register faults
(R34). The handle fields have no reader (R35). DESIGN CHOICE (assumption 12): it also answers while `BUSY` is true. -/
def hostRead (r : ResultReg) (s : State) : Host.Outcome HostValue Fault Refusal :=
  readOr r <|
    match r with
    | .STATUS => s.STATUS.map (fun c => .status c.code)
    | .RVAL0 => s.RVAL0.map .num
    | .RVAL1 => s.RVAL1.map .num
    | .RINT => s.RINT.map .int
    | .PB i => s.PB.map (fun p => .byte (p.get i))

end Sys2Proof.Machine
end

