-- ==== Sys2Proof/Machine/Step.lean ====
section
/-! DEFINITION. One step of the engine: accept one command and run it (R21, R84). -/

namespace Sys2Proof.Machine

/-- One step, a whole command (DESIGN CHOICE, assumption 1). While `BUSY` is true between steps there is none (R248, R21). With
nothing at the port the engine waits and keeps all its state (R254, R271; DESIGN CHOICE, assumption 6). Otherwise it accepts the
oldest command, decodes it (R84) and runs it. -/
def step (s : State) : Host.Outcome State Fault Refusal :=
  if s.BUSY then .fault .stuck
  else
    match s.PORT with
    | [] => .next s
    | c :: later =>
      match decode c.bytes with
      | .error e => rejectCommand e (s.accept later)
      | .ok i => exec i (s.accept later)

/-- The state with the command of a table word first at the port of a free engine, so that the next step runs it. The engine
has no instruction memory (R36): presenting a command is all there is to fetching one.
DESIGN CHOICE (assumption 5). -/
def State.withFetchWord (s : State) (nbits w : Nat) : State := s.present (tableCommand nbits w)

end Sys2Proof.Machine
end

