-- ==== Sys2Proof/WellFormed.lean ====
section
/-! DEFINITION. Legal operands: the "legal values" column of R72 with the channels of R192 and the addresses of R190, written
from those tables and not from the commands' pseudocode. Every command decodes whether its operands are legal or not (R84), so
this is no condition of decoding: it says which commands draw no operand error. -/

namespace Sys2Proof

/-- A channel of an RMS or power read: 1 or 2 (R192). -/
def legalRmsChannel (ch : Byte) : Bool := decide (ch.toNat = 1 ∨ ch.toNat = 2)

/-- A channel of an energy read or of a conversion: 0, 1 or 2 (R192). -/
def legalAnyChannel (ch : Byte) : Bool := decide (ch.toNat ≤ 2)

/-- A quantity: 0, 1 or 2 (R72). -/
def legalQuantity (qty : Byte) : Bool := decide (qty.toNat ≤ 2)

/-- A boolean operand: 0x00 or 0x01 (R72). -/
def legalFlag (flag : Byte) : Bool := decide (flag.toNat ≤ 1)

/-- A binary32 pattern that is strictly positive and finite (R220): as an unsigned number it lies above +0 and below
+infinity, the sign bit being clear. -/
def legalMultiplier (k : BitVec 32) : Bool := decide (0 < k.toNat ∧ k.toNat < 0x7F800000)

/-- Every operand of the command has a value that R72 (with R190, R192 and R220) calls legal. -/
def Instr.wf : Instr → Bool
  | .init => true
  | .sendFrame _ _ _ _ => true
  | .readFrame _ => true
  | .readFrameSettled _ => true
  | .latch => true
  | .readRms ch => legalRmsChannel ch
  | .readRmsV ch => legalRmsChannel ch
  | .readRmsI ch => legalRmsChannel ch
  | .readPower ch => legalRmsChannel ch
  | .readEnergy ch => legalAnyChannel ch
  | .addrLookup ch qty =>
    legalQuantity qty && (if qty.toNat = 2 then legalAnyChannel ch else legalRmsChannel ch)
  | .setCal kv ki => legalMultiplier kv && legalMultiplier ki
  | .setAutoLatch flag => legalFlag flag
  | .setCrc flag => legalFlag flag
  | .field014 _ _ _ _ => true
  | .field1532 _ _ _ _ => true
  | .field028 _ _ _ _ => true
  | .fieldU32 _ _ _ _ => true
  | .convV ch raw15 => decide (raw15.toNat ≤ 0x7FFF) && legalAnyChannel ch
  | .convI ch raw17 => decide (raw17.toNat ≤ 0x1FFFF) && legalAnyChannel ch
  | .convP ch _ => legalAnyChannel ch
  | .convE _ => true

end Sys2Proof
end

