-- ==== Sys2Proof/Safety.lean ====
section
/-! DEFINITION. What claims about the engine are stated in: what a list of interface events does to the interface state, read
off R30 to R33 and not off the operations of `Machine/Ops.lean`; the event groups of the sub-sequences (R101, R102, R120, R123,
R125, R140); and the invariants that every step keeps. -/

namespace Sys2Proof.Machine

/-! ## Reading interface events -/

/-- What an event does to the record of one platform pin (R30). -/
def pinEvent (pin : PinId) (p : PinState) : Event → PinState
  | .CFG q => if q = pin then (match p with | .Z => .out none | .out lvl => .out lvl) else p
  | .WR q lvl => if q = pin then .out (some lvl) else p
  | _ => p

/-- The record of one platform pin after a list of events. -/
def replayPin (pin : PinId) (p : PinState) (evs : List Event) : PinState := evs.foldl (pinEvent pin) p

/-- `PIN` after a list of events; with no sync pin `PIN[SYNC]` does not change (R30). -/
def replayPins (c : Config) (p : Pins) (evs : List Event) : Pins :=
  { CS := replayPin c.P_CS_PIN p.CS evs
    RST := replayPin c.P_RST_PIN p.RST evs
    SYNC := match c.P_SYNC_PIN with | none => p.SYNC | some pin => replayPin pin p.SYNC evs }

/-- `IN_TXN` after a list of events: true after a `TB`, false after a `TE` (R32). -/
def replayInTxn (b : Bool) (evs : List Event) : Bool :=
  evs.foldl (fun b e => match e with | .TB _ => true | .TE => false | _ => b) b

/-- The bytes received in a list of events, in order (R11 `X(b, r)`). -/
def received : List Event → List Byte
  | [] => []
  | .X _ r :: evs => r :: received evs
  | _ :: evs => received evs

/-- Whether the bus is begun in a list of events (R31). -/
def begins (evs : List Event) : Bool := evs.any (fun e => decide (e = .BEGIN))

/-- The state after interface events and nothing else: the trace longer (R33), the pins, `BUS_BEGUN` and `IN_TXN` as the events
leave them (R30 to R32), and the scripted answers used up. -/
def State.afterEvents (s : State) (evs : List Event) : State :=
  { s with
    TRACE := s.TRACE ++ evs
    PIN := replayPins s.cfg s.PIN evs
    IN_TXN := replayInTxn s.IN_TXN evs
    BUS_BEGUN := s.BUS_BEGUN || begins evs
    IC := s.IC.drop (received evs).length }

/-- The received bytes begin with the scripted answers, as far as both go; the oracle gave the others (R128). -/
def AnsweredBy (ic r : List Byte) : Prop := ic.take r.length <+: r

/-! ## Event groups -/

/-- `SYNCTOGGLE` (R102): six edges LOW, HIGH, LOW, HIGH, LOW, HIGH and five delays between them. -/
def syncToggleEvents (p : PinId) : List Event :=
  [.WR p .LOW, .DMS 2, .WR p .HIGH, .DMS 2, .WR p .LOW, .DMS 2, .WR p .HIGH, .DMS 2, .WR p .LOW, .DMS 2, .WR p .HIGH]

/-- `BRINGUP` (R101). -/
def bringupEvents (c : Config) : List Event :=
  [.CFG c.P_CS_PIN, .CFG c.P_RST_PIN] ++
  (match c.P_SYNC_PIN with | none => [] | some p => [.CFG p]) ++
  [.WR c.P_CS_PIN .LOW, .WR c.P_RST_PIN .LOW, .DMS 35, .WR c.P_RST_PIN .HIGH, .DMS 35, .WR c.P_CS_PIN .HIGH, .DMS 2] ++
  (match c.P_SYNC_PIN with | none => [] | some p => syncToggleEvents p) ++
  [.DMS 2, .WR c.P_CS_PIN .LOW, .DMS 5, .WR c.P_CS_PIN .HIGH, .BEGIN]

/-- One transaction that sends `sent` and receives `recv` (R120). -/
def txnEvents (c : Config) (sent recv : List Byte) : List Event :=
  [.TB ⟨c.P_BUS_MODE, c.P_BUS_CLOCK_HZ⟩, .WR c.P_CS_PIN .LOW] ++ List.zipWith Event.X sent recv ++
  [.WR c.P_CS_PIN .HIGH, .TE]

/-- The bytes of a payload in the order received (R29). -/
def Payload.bytes (p : Payload) : List Byte := [p.b0, p.b1, p.b2, p.b3]

/-- A read of register `a`: the address transaction, in which `ra` comes back, and the capture transaction of filler bytes,
in which `dropped` comes back and then the payload (R123 with nothing dropped, R125 with 12 bytes). -/
def readEvents (c : Config) (a : Byte) (ra dropped : List Byte) (p : Payload) : List Event :=
  txnEvents c [a, 0xFF, 0xFF, 0xFF] ra ++
  txnEvents c (List.replicate (dropped.length + 4) 0xFF) (dropped ++ p.bytes)

/-- The events of one latch (R140): the pulse of the sync pin, or one frame of software latch bits, in which four bytes come
back. There is none when the latch is unavailable. -/
def IsLatch (c : Config) (evs : List Event) : Prop :=
  match c.P_LATCH_STRATEGY, c.P_SYNC_PIN with
  | .PIN, none => False
  | .PIN, some p => evs = [.WR p .LOW, .DUS 4, .WR p .HIGH]
  | .SW_BITS f, _ => ∃ r : List Byte, r.length = 4 ∧ evs = txnEvents c [f.ra, f.wa, f.dl, f.dh] r

/-- The latch of a latching read (R142): one when `AUTO_LATCH` is false, none when it is true. -/
def ReadLatch (s : State) (evs : List Event) : Prop :=
  if s.AUTO_LATCH then evs = [] else IsLatch s.cfg evs

/-- A latch can run: "a latch is needed, the strategy is `PIN` and `P_SYNC_PIN = none`" is not the case (R240). -/
def LatchAvailable (c : Config) : Prop := ¬(c.P_LATCH_STRATEGY = .PIN ∧ c.P_SYNC_PIN = none)

/-- The 32-bit payload word `W = PB[3]<<24 | PB[2]<<16 | PB[1]<<8 | PB[0]` (R52). -/
def payloadWord (b0 b1 b2 b3 : Byte) : BitVec 32 := b3 ++ b2 ++ b1 ++ b0

/-! ## Values -/

/-- The real value of a binary32 pattern by the IEEE 754 layout that R72 names: a normal number's significand has the implicit
bit, exponent field 0 is the subnormal range. It means something for finite patterns. -/
def binary32Value (b : BitVec 32) : ℚ :=
  let e : Nat := (b.extractLsb' 23 8).toNat
  let f : ℚ := ((b.extractLsb' 0 23).toNat : ℚ)
  let mag : ℚ := if e = 0 then f * (2 : ℚ) ^ (-149 : ℤ) else (2 ^ 23 + f) * (2 : ℚ) ^ ((e : ℤ) - 150)
  if b.getLsbD 31 then -mag else mag

/-- The sentinel -1 of `P_NUMERICS`: the rational, or the binary32 pattern 0xBF800000. -/
def minusOne : Numerics → NumVal
  | .EXACT => .exact (-1)
  | .BINARY32 => .binary32 0xBF800000

/-- Zero of `P_NUMERICS`: the rational, or the pattern of +0. -/
def zeroOf : Numerics → NumVal
  | .EXACT => .exact 0
  | .BINARY32 => .binary32 0

/-- Entry `ch` of a row of the calibration table (R25). -/
def CalEntry (r : CalRow) (ch : Byte) (k : NumVal) : Prop :=
  (ch = 0 ∧ k = r.c0) ∨ (ch = 1 ∧ k = r.c1) ∨ (ch = 2 ∧ k = r.c2)

/-! ## The statuses, by the tables -/

/-- `ILLEGAL_OPERAND`: "`qty > 2`, flag not 0x00/0x01, `raw15 > 0x7FFF` or `raw17 > 0x1FFFF`" (R240). -/
def illegalOperand : Instr → Bool
  | .addrLookup _ qty => decide (2 < qty.toNat)
  | .setAutoLatch flag => decide (1 < flag.toNat)
  | .setCrc flag => decide (1 < flag.toNat)
  | .convV _ raw15 => decide (0x7FFF < raw15.toNat)
  | .convI _ raw17 => decide (0x1FFFF < raw17.toNat)
  | _ => false

/-- `INVALID_CHANNEL`: a channel outside the legal set of R192. -/
def invalidChannel : Instr → Bool
  | .readRms ch => !legalRmsChannel ch
  | .readRmsV ch => !legalRmsChannel ch
  | .readRmsI ch => !legalRmsChannel ch
  | .readPower ch => !legalRmsChannel ch
  | .readEnergy ch => !legalAnyChannel ch
  | .addrLookup ch qty => if qty.toNat = 2 then !legalAnyChannel ch else !legalRmsChannel ch
  | .convV ch _ => !legalAnyChannel ch
  | .convI ch _ => !legalAnyChannel ch
  | .convP ch _ => !legalAnyChannel ch
  | _ => false

/-- `INVALID_CAL`: "a `SET_CAL` value that is not strictly positive and finite" (R240). -/
def invalidCal : Instr → Bool
  | .setCal kv ki => !(legalMultiplier kv && legalMultiplier ki)
  | _ => false

/-- The commands that drive the bus or the pins and need `READY` (R240 `NOT_READY`, R272). -/
def needsReady (i : Instr) : Bool :=
  decide (i.op ∈ [Op.SEND_FRAME, .READ_FRAME, .READ_FRAME_SETTLED, .LATCH, .READ_RMS, .READ_RMS_V, .READ_RMS_I, .READ_POWER,
    .READ_ENERGY])

/-- The commands that need a latch in a state: `LATCH` always (R141), the latching reads when `AUTO_LATCH` is false (R142). -/
def needsLatchNow (i : Instr) (s : State) : Bool :=
  decide (i.op = .LATCH) ||
    (decide (i.op ∈ [Op.READ_RMS, .READ_RMS_V, .READ_RMS_I, .READ_POWER]) && !s.AUTO_LATCH)

/-- No latch can run: strategy `PIN` and no sync pin (R240 `LATCH_UNAVAILABLE`). -/
def latchUnavailable (c : Config) : Bool := decide (c.P_LATCH_STRATEGY = .PIN) && c.P_SYNC_PIN.isNone

/-- The status of a decoded command by the causes of R240 and the priority of R242. -/
def statusBySpec (i : Instr) (s : State) : Status :=
  if illegalOperand i then .ILLEGAL_OPERAND
  else if invalidChannel i then .INVALID_CHANNEL
  else if invalidCal i then .INVALID_CAL
  else if needsReady i && !s.READY then .NOT_READY
  else if needsLatchNow i s && latchUnavailable s.cfg then .LATCH_UNAVAILABLE
  else .OK

/-- The commands that leave the sentinel in `RVAL0` on `INVALID_CHANNEL` (R241). -/
def leavesSentinel (i : Instr) : Bool :=
  decide (i.op ∈ [Op.READ_RMS_V, .READ_RMS_I, .READ_POWER, .READ_ENERGY, .CONV_V, .CONV_I, .CONV_P])

/-! ## Invariants -/

/-- R21, R32, R36: `IN_TXN` is false whenever `BUSY` is, and the step position exists exactly while `BUSY` is true. -/
def IdleInv (s : State) : Prop := s.SEQ.isSome = s.BUSY ∧ (s.BUSY = false → s.IN_TXN = false)

/-- A multiplier is a strictly positive finite number of the domain that `P_NUMERICS` selects (R25, R12). -/
def GoodMultiplier (m : Numerics) (k : NumVal) : Prop :=
  match m, k with
  | .EXACT, .exact q => 0 < q
  | .BINARY32, .binary32 b => 0 < b.toNat ∧ b.toNat < 0x7F800000
  | _, _ => False

/-- R25 and R224: one good multiplier for all channels in each row of the calibration table. -/
def CalInv (s : State) : Prop :=
  GoodMultiplier s.cfg.P_NUMERICS s.CAL_V.c0 ∧ GoodMultiplier s.cfg.P_NUMERICS s.CAL_I.c0 ∧
  s.CAL_V.c1 = s.CAL_V.c0 ∧ s.CAL_V.c2 = s.CAL_V.c0 ∧ s.CAL_I.c1 = s.CAL_I.c0 ∧ s.CAL_I.c2 = s.CAL_I.c0

/-- R30, R31, R33: `PIN` and `BUS_BEGUN` are what the trace, read from the reset state, says. -/
def InterfaceInv (s : State) : Prop :=
  s.PIN = replayPins s.cfg ⟨.Z, .Z, .Z⟩ s.TRACE ∧ s.BUS_BEGUN = begins s.TRACE

/-- Where a trace stands inside a transaction (R120); `selected k` has had `k` transfers. -/
inductive TxnPhase where
  | outside
  | begun
  | selected (k : Nat)
  | released
  deriving DecidableEq, Repr

/-- One event of the transaction discipline of R120: `TB(BUSCFG)`, chip-select low, only transfers, 4 or 16 of them,
chip-select high, `TE`; no transfer and no `TE` outside. None is a breach. -/
def TxnPhase.next (c : Config) (ph : TxnPhase) (e : Event) : Option TxnPhase :=
  match ph with
  | .outside =>
    match e with
    | .TB cfg => if cfg = ⟨c.P_BUS_MODE, c.P_BUS_CLOCK_HZ⟩ then some .begun else none
    | .X _ _ => none
    | .TE => none
    | .CFG _ => some .outside
    | .WR _ _ => some .outside
    | .DMS _ => some .outside
    | .DUS _ => some .outside
    | .BEGIN => some .outside
  | .begun => if e = .WR c.P_CS_PIN .LOW then some (.selected 0) else none
  | .selected k =>
    match e with
    | .X _ _ => some (.selected (k + 1))
    | _ => if e = .WR c.P_CS_PIN .HIGH ∧ (k = 4 ∨ k = 16) then some .released else none
  | .released => if e = .TE then some .outside else none

/-- The phase after a list of events, none after a breach. -/
def txnPhase (c : Config) : TxnPhase → List Event → Option TxnPhase
  | ph, [] => some ph
  | ph, e :: evs => (ph.next c e).bind fun ph' => txnPhase c ph' evs

/-- R120 and R57: the trace keeps the transaction discipline, and `IN_TXN` says where it stands. -/
def TxnInv (s : State) : Prop :=
  ∃ ph, txnPhase s.cfg .outside s.TRACE = some ph ∧ (s.IN_TXN = true ↔ ph ≠ .outside)

/-- R22, R31, R271: before the first bring-up an idle engine has performed no interface action; after it the bus is begun and
every pin of an idle engine was last driven high (R30, R101, R102, R120, R140). -/
def BringupInv (s : State) : Prop :=
  (s.READY = true → s.BUS_BEGUN = true) ∧
  (s.BUSY = false → s.READY = false → s.TRACE = []) ∧
  (s.BUSY = false → s.READY = true →
    s.PIN.CS = .out (some .HIGH) ∧ s.PIN.RST = .out (some .HIGH) ∧
    (s.cfg.P_SYNC_PIN.isSome = true → s.PIN.SYNC = .out (some .HIGH)))

/-- R28: "the range is -2^31 to 2^32-1". -/
def RintInv (s : State) : Prop := ∀ z, s.RINT = some z → -2 ^ 31 ≤ z ∧ z ≤ 2 ^ 32 - 1

/-- A value of the domain that `P_NUMERICS` selects (R12), and a number: no result is a NaN. -/
def InDomain (m : Numerics) (v : NumVal) : Prop :=
  match m, v with
  | .EXACT, .exact _ => True
  | .BINARY32, .binary32 b => B32.isNaN b = false
  | _, _ => False

/-- R27, R12, I6: the values in `RVAL0` and `RVAL1` are of the selected domain and no NaN. -/
def RvalInv (s : State) : Prop :=
  (∀ v, s.RVAL0 = some v → InDomain s.cfg.P_NUMERICS v) ∧ (∀ v, s.RVAL1 = some v → InDomain s.cfg.P_NUMERICS v)

end Sys2Proof.Machine
end

