-- ==== Sys2Proof/Certificates/Slice0/Obligations.lean ====
section
/-! DEFINITION. The statements for the provers, from the numbered rules of the spec. `State.afterEvents`, `txnEvents` and the
other words they use that are no operation of the model are in `Sys2Proof/Safety.lean`. -/

open Sys2Proof Sys2Proof.Machine

namespace Sys2Proof.Machine

/-- A read command completes: after the events of `lat`, then those of a read of register `a` that drops `n` received bytes, all
the received bytes as the IC answers, the payload is in `PB`, the results are written and `STATUS` is `OK`. Everything not written
by `results` or `State.afterEvents` is as before. That `PB` holds the bytes in the order received is the spec's own inference (D32
"Mark this choice INFERRED"); that the answers come from a script is the model's choice (log entry 7). -/
def ReadCompletes (i : Instr) (s : State) (lat : List Event → Prop) (a : Byte) (n : Nat)
    (results : Payload → State → State) : Prop :=
  ∃ (evs : List Event) (ra dropped : List Byte) (p : Payload),
    lat evs ∧ ra.length = 4 ∧ dropped.length = n ∧
    AnsweredBy s.IC (received (evs ++ readEvents s.cfg a ra dropped p)) ∧
    exec i s = .next (results p
      { s.afterEvents (evs ++ readEvents s.cfg a ra dropped p) with
        PB := some p, STATUS := some .OK, BUSY := false, SEQ := none })

/-- The bus and the pins can be used: bring-up has run (R22) and the platform completes every action (R277). -/
def BusUsable (s : State) : Prop := s.READY = true ∧ s.STALL = none

/-- The opcode map of R73: opcode byte and length. -/
def opcodeMap : List (Byte × Nat) :=
  [(0x01, 1), (0x02, 5), (0x03, 2), (0x04, 2), (0x05, 1),
   (0x10, 2), (0x11, 2), (0x12, 2), (0x13, 2), (0x14, 2), (0x15, 3),
   (0x20, 9), (0x21, 2), (0x22, 2),
   (0x30, 5), (0x31, 5), (0x32, 5), (0x33, 5),
   (0x40, 4), (0x41, 5), (0x42, 6), (0x43, 5)]

/-- The table of R190: channel, quantity and register address. -/
def addressTable (m : AddrMap) : List (Byte × Byte × Byte) :=
  [(1, 0, m.A_RMS1), (2, 0, m.A_RMS2), (1, 1, m.A_PWR1), (2, 1, m.A_PWR2),
   (0, 2, m.A_ENT), (1, 2, m.A_EN1), (2, 2, m.A_EN2)]

/-- The four commands that latch (R142), on one channel. -/
def latchingReads (ch : Byte) : List Instr := [.readRms ch, .readRmsV ch, .readRmsI ch, .readPower ch]

end Sys2Proof.Machine

/-! ## Encoding -/

/-- Words written out from R73 and R74: each decodes to the command it stands for. -/
def Obligations.WrittenOutWordsDecode : Prop :=
  decode [0x01] = .ok .init ∧
  decode [0x02, 0xFF, 0x05, 0x34, 0x12] = .ok (.sendFrame 0xFF 0x05 0x34 0x12) ∧
  decode [0x12, 0x02] = .ok (.readRmsI 0x02) ∧
  decode [0x15, 0x00, 0x02] = .ok (.addrLookup 0x00 0x02) ∧
  decode [0x20, 0x00, 0x00, 0xA0, 0x3F, 0x00, 0x00, 0x40, 0x3F] = .ok (.setCal 0x3FA00000 0x3F400000) ∧
  decode [0x31, 0x00, 0x01, 0x02, 0x03] = .ok (.field1532 0x00 0x01 0x02 0x03) ∧
  decode [0x40, 0x01, 0x34, 0x12] = .ok (.convV 0x01 0x1234) ∧
  decode [0x41, 0x02, 0xFF, 0xFF, 0x01] = .ok (.convI 0x02 0x01FFFF) ∧
  decode [0x42, 0x01, 0x00, 0x00, 0x00, 0x80] = .ok (.convP 0x01 0x80000000) ∧
  decode [0x43, 0x78, 0x56, 0x34, 0x12] = .ok (.convE 0x12345678) ∧
  decodeTableWord 40 0x1234567833 = some (.fieldU32 0x78 0x56 0x34 0x12) ∧
  decode [0x06] = .error .illegalOpcode ∧ decode [0x11, 0x03, 0x00] = .error .badLength

/-- Decode and encode agree, for every command and every operand value (R73, R74). -/
def Obligations.DecodeOfEncodeIsTheCommand : Prop := ∀ i : Instr, decode (encode i) = .ok i

/-- The other direction: a byte string that decodes is the encoding of what it decodes to, so every command has one encoding. -/
def Obligations.EncodeOfDecodeIsTheString : Prop :=
  ∀ (bytes : List Byte) (i : Instr), decode bytes = .ok i → encode i = bytes

/-- R84 with R75: at an engine that is free, a first byte outside the map of R73 ends with `ILLEGAL_OPCODE` whatever follows it, a
wrong length with `BAD_LENGTH`, both with no other effect; a string of the right length is a command, and it is run, accepted as
R21 says, with the step position of R36. That the position starts at 0, and that a whole command is one step, are the model's (log
entries 10 and 1). The map leaves 234 bytes unassigned. -/
def Obligations.PortFollowsTheDecodingProcedure : Prop :=
  (∀ (s : State) (b : Byte) (rest : List Byte) (later : List Command), s.BUSY = false → s.PORT = ⟨b, rest⟩ :: later →
    (b ∉ opcodeMap.map Prod.fst →
      step s = .next { s with PORT := later, STATUS := some .ILLEGAL_OPCODE, SEQ := none }) ∧
    (∀ n, (b, n) ∈ opcodeMap → rest.length + 1 ≠ n →
      step s = .next { s with PORT := later, STATUS := some .BAD_LENGTH, SEQ := none }) ∧
    (∀ n, (b, n) ∈ opcodeMap → rest.length + 1 = n →
      ∃ i, encode i = b :: rest ∧ step s = exec i { s with PORT := later, BUSY := true, SEQ := some 0 })) ∧
  ((List.range 256).filter (fun n => !(opcodeMap.map Prod.fst).contains (BitVec.ofNat 8 n))).length = 234

/-- A step runs the decoded command: on the oldest command of the port, accepted (R21), which makes `BUSY` true and starts the
step position (R36). That it starts at 0, and that the whole command is one step, are the model's (log entries 10 and 1). -/
def Obligations.StepRunsTheDecodedCommand : Prop :=
  ∀ (s : State) (c : Command) (later : List Command) (i : Instr),
    s.BUSY = false → s.PORT = c :: later → decode c.bytes = .ok i →
    step s = exec i { s with PORT := later, BUSY := true, SEQ := some 0 }

/-- R21, R248, R254: while `BUSY` is true between steps there is no step, and a free engine with nothing at the port keeps all
its state. The fault and the idle step are the model's forms of this (log entries 9 and 6). -/
def Obligations.BusyEngineIsStuckAndIdleEngineWaits : Prop :=
  (∀ s : State, s.BUSY = true → step s = .fault .stuck) ∧
  (∀ s : State, s.BUSY = false → s.PORT = [] → step s = .next s)

/-- No command's meaning stops: for every command and every state, legal operands or not, `exec` answers a next state (R34 "No
rule of the engine reads an unwritten element", R241 "No error is raised after an interface action has begun"). On a platform that
never completes an action, the next state, in which the engine hangs with `BUSY` true, is the model's choice (log entry 8): R248
gives no step past the incomplete action. -/
def Obligations.EveryCommandAnswersANextState : Prop := ∀ (i : Instr) (s : State), ∃ t, exec i s = .next t

/-! ## Reset and the host's reads -/

/-- R270, element by element, for every configuration. The queues of the environment (`PORT`, `IC`, `STALL`) are the model's own
and are left out. -/
def Obligations.ResetLeavesTheListedValues : Prop :=
  State.reset = State.resetWith State.reset.cfg ∧
  ∀ c : Config,
    (State.resetWith c).cfg = c ∧
    (State.resetWith c).BUSY = false ∧ (State.resetWith c).READY = false ∧
    (State.resetWith c).AUTO_LATCH = false ∧ (State.resetWith c).CRC_EN = false ∧
    (c.P_NUMERICS = .EXACT →
      (State.resetWith c).CAL_V = ⟨.exact 1, .exact 1, .exact 1⟩ ∧
      (State.resetWith c).CAL_I = ⟨.exact 1, .exact 1, .exact 1⟩) ∧
    (c.P_NUMERICS = .BINARY32 →
      (State.resetWith c).CAL_V = ⟨.binary32 0x3F800000, .binary32 0x3F800000, .binary32 0x3F800000⟩ ∧
      (State.resetWith c).CAL_I = ⟨.binary32 0x3F800000, .binary32 0x3F800000, .binary32 0x3F800000⟩) ∧
    (State.resetWith c).STATUS = none ∧ (State.resetWith c).RVAL0 = none ∧ (State.resetWith c).RVAL1 = none ∧
    (State.resetWith c).RINT = none ∧ (State.resetWith c).PB = none ∧
    (State.resetWith c).PIN = ⟨.Z, .Z, .Z⟩ ∧
    (State.resetWith c).BUS_BEGUN = false ∧ (State.resetWith c).IN_TXN = false ∧
    (State.resetWith c).TRACE = [] ∧ (State.resetWith c).SEQ = none

/-- R34: a host read of a result register that nothing has written faults, and a written one gives its value, `STATUS` as the
8-bit code of R240. That this is so while `BUSY` is true as well is the model's choice (log entry 12). -/
def Obligations.HostReadsFaultExactlyWhenUnwritten : Prop :=
  ∀ s : State,
    (s.STATUS = none → hostRead .STATUS s = .fault (.unwrittenRead .STATUS)) ∧
    (s.RVAL0 = none → hostRead .RVAL0 s = .fault (.unwrittenRead .RVAL0)) ∧
    (s.RVAL1 = none → hostRead .RVAL1 s = .fault (.unwrittenRead .RVAL1)) ∧
    (s.RINT = none → hostRead .RINT s = .fault (.unwrittenRead .RINT)) ∧
    (∀ i, s.PB = none → hostRead (.PB i) s = .fault (.unwrittenRead (.PB i))) ∧
    (∀ c x, s.STATUS = some c →
      (c, x) ∈ [(Status.OK, (0x00 : Byte)), (.INVALID_CHANNEL, 0x01), (.ILLEGAL_OPCODE, 0x02), (.ILLEGAL_OPERAND, 0x03),
        (.NOT_READY, 0x04), (.INVALID_CAL, 0x05), (.BAD_LENGTH, 0x06), (.LATCH_UNAVAILABLE, 0x07)] →
      hostRead .STATUS s = .next (.status x)) ∧
    (∀ v, s.RVAL0 = some v → hostRead .RVAL0 s = .next (.num v)) ∧
    (∀ v, s.RVAL1 = some v → hostRead .RVAL1 s = .next (.num v)) ∧
    (∀ z, s.RINT = some z → hostRead .RINT s = .next (.int z)) ∧
    (∀ p, s.PB = some p →
      hostRead (.PB 0) s = .next (.byte p.b0) ∧ hostRead (.PB 1) s = .next (.byte p.b1) ∧
      hostRead (.PB 2) s = .next (.byte p.b2) ∧ hostRead (.PB 3) s = .next (.byte p.b3))

/-! ## Device Sequencer -/

/-- R101, R104, R107: `INIT` performs exactly the actions of bring-up in their order, in every state, and leaves `READY`, `RINT`
and `STATUS` written, the bus begun, every pin high, and nothing else changed. -/
def Obligations.InitPerformsBringup : Prop :=
  ∀ s : State, s.STALL = none →
    exec .init s = .next { s with
      READY := true, RINT := some 1, STATUS := some .OK, BUSY := false, SEQ := none, BUS_BEGUN := true
      TRACE := s.TRACE ++ bringupEvents s.cfg
      PIN :=
        { CS := .out (some .HIGH)
          RST := .out (some .HIGH)
          SYNC := if s.cfg.P_SYNC_PIN.isSome then .out (some .HIGH) else s.PIN.SYNC } }

/-- R106: a repeated `INIT` performs the full bring-up again and leaves the state of the first, except that `TRACE` grows. -/
def Obligations.RepeatedInitOnlyGrowsTheTrace : Prop :=
  ∀ s t : State, s.STALL = none → exec .init s = .next t →
    exec .init t = .next { t with TRACE := t.TRACE ++ bringupEvents s.cfg }

/-! ## Frame Transport and Latch Controller -/

/-- R122, R120, R121: `SEND_FRAME` is one transaction of its four bytes; the response is in the trace and nowhere else. -/
def Obligations.SendFrameIsOneTransaction : Prop :=
  ∀ (ra wa dl dh : Byte) (s : State), BusUsable s →
    ∃ r : List Byte, r.length = 4 ∧ AnsweredBy s.IC r ∧
      exec (.sendFrame ra wa dl dh) s = .next
        { s.afterEvents (txnEvents s.cfg [ra, wa, dl, dh] r) with STATUS := some .OK, BUSY := false, SEQ := none }

/-- R123, R124: `READ_FRAME` is an address transaction and a capture transaction of four bytes, which are left in `PB`, in the
order that D32 infers. -/
def Obligations.ReadFrameCapturesTheSecondTransaction : Prop :=
  ∀ (addr : Byte) (s : State), BusUsable s →
    ReadCompletes (.readFrame addr) s (fun evs => evs = []) addr 0 (fun _ t => t)

/-- R125, R126: `READ_FRAME_SETTLED` captures 16 bytes in one transaction and leaves the last 4 in `PB`. That the address goes in
a transaction of its own before the capture, and the order of the bytes in `PB`, are the spec's own inferences (D18 and D32, each
"Mark this choice INFERRED"). -/
def Obligations.ReadFrameSettledKeepsTheLastFour : Prop :=
  ∀ (addr : Byte) (s : State), BusUsable s →
    ReadCompletes (.readFrameSettled addr) s (fun evs => evs = []) addr 12 (fun _ t => t)

/-- R140, R141: `LATCH` pulses the sync pin, or pushes the software latch frame, whatever `AUTO_LATCH` is. -/
def Obligations.LatchPulsesOrPushes : Prop :=
  ∀ s : State, BusUsable s → LatchAvailable s.cfg →
    ∃ evs, IsLatch s.cfg evs ∧ AnsweredBy s.IC (received evs) ∧
      exec .latch s = .next { s.afterEvents evs with STATUS := some .OK, BUSY := false, SEQ := none }

/-- R143: with strategy `PIN`, a successful RMS or power read appends exactly one latch group, first of all, when `AUTO_LATCH` is
false, and no event on the sync pin when it is true. A command that ends with an error status appends no event. The first part is
said where the sync pin is another pin than chip-select; the model gives both their events when they are one pin. -/
def Obligations.ReadsLatchExactlyOnce : Prop :=
  (∀ (s : State) (ch : Byte) (i : Instr) (p : PinId), BusUsable s → ch = 1 ∨ ch = 2 → i ∈ latchingReads ch →
    s.cfg.P_LATCH_STRATEGY = .PIN → s.cfg.P_SYNC_PIN = some p → p ≠ s.cfg.P_CS_PIN →
    ∃ t evs, exec i s = .next t ∧ t.STATUS = some .OK ∧ (∀ lvl, Event.WR p lvl ∉ evs) ∧
      t.TRACE = s.TRACE ++ (if s.AUTO_LATCH then [] else [.WR p .LOW, .DUS 4, .WR p .HIGH]) ++ evs) ∧
  (∀ (s t : State) (i : Instr), s.STALL = none → exec i s = .next t → t.STATUS ≠ some .OK → t.TRACE = s.TRACE)

/-! ## Bit-Field Decoder -/

/-- R150: opcode 0x30; the voltage field is `W[14:0]`, unsigned; only `RINT` and `STATUS` are written. -/
def Obligations.Field014IsTheLowFifteenBits : Prop :=
  ∀ (b0 b1 b2 b3 : Byte) (s : State),
    decode [0x30, b0, b1, b2, b3] = .ok (.field014 b0 b1 b2 b3) ∧
    exec (.field014 b0 b1 b2 b3) s = .next { s with
      RINT := some (((payloadWord b0 b1 b2 b3).extractLsb' 0 15).toNat : Int)
      STATUS := some .OK, BUSY := false, SEQ := none }

/-- R151: opcode 0x31; the current field is `W[31:15]`, unsigned; only `RINT` and `STATUS` are written. -/
def Obligations.Field1532IsTheHighSeventeenBits : Prop :=
  ∀ (b0 b1 b2 b3 : Byte) (s : State),
    decode [0x31, b0, b1, b2, b3] = .ok (.field1532 b0 b1 b2 b3) ∧
    exec (.field1532 b0 b1 b2 b3) s = .next { s with
      RINT := some (((payloadWord b0 b1 b2 b3).extractLsb' 15 17).toNat : Int)
      STATUS := some .OK, BUSY := false, SEQ := none }

/-- R152: opcode 0x32; the power field is the whole word, read as a signed number; only `RINT` and `STATUS` are written. -/
def Obligations.Field028IsTheSignedWord : Prop :=
  ∀ (b0 b1 b2 b3 : Byte) (s : State),
    decode [0x32, b0, b1, b2, b3] = .ok (.field028 b0 b1 b2 b3) ∧
    exec (.field028 b0 b1 b2 b3) s = .next { s with
      RINT := some (payloadWord b0 b1 b2 b3).toInt
      STATUS := some .OK, BUSY := false, SEQ := none }

/-- R153: opcode 0x33; the energy field is the whole word, unsigned; only `RINT` and `STATUS` are written. -/
def Obligations.FieldU32IsTheUnsignedWord : Prop :=
  ∀ (b0 b1 b2 b3 : Byte) (s : State),
    decode [0x33, b0, b1, b2, b3] = .ok (.fieldU32 b0 b1 b2 b3) ∧
    exec (.fieldU32 b0 b1 b2 b3) s = .next { s with
      RINT := some ((payloadWord b0 b1 b2 b3).toNat : Int)
      STATUS := some .OK, BUSY := false, SEQ := none }

/-! ## Conversion Engine -/

/-- R172: `CONV_V`, opcode 0x40, gives `ILLEGAL_OPERAND` above 0x7FFF, then the sentinel and `INVALID_CHANNEL` above channel 2,
and else writes `raw * 0.0354840440 * CAL_V[ch]`: exact under `EXACT`, rounded at each operation under `BINARY32`, where `lit(KV)
= 0x3D1157B8`. Nothing else is written. -/
def Obligations.ConvVScalesByTheVoltageWeight : Prop :=
  ∀ (s : State) (ch : Byte) (raw : BitVec 16),
    decode [0x40, ch, byteOf raw 0, byteOf raw 1] = .ok (.convV ch raw) ∧
    (0x7FFF < raw.toNat →
      exec (.convV ch raw) s = .next { s with STATUS := some .ILLEGAL_OPERAND, BUSY := false, SEQ := none }) ∧
    (raw.toNat ≤ 0x7FFF → 2 < ch.toNat →
      exec (.convV ch raw) s = .next { s with
        RVAL0 := some (minusOne s.cfg.P_NUMERICS), STATUS := some .INVALID_CHANNEL, BUSY := false, SEQ := none }) ∧
    (∀ k, raw.toNat ≤ 0x7FFF → CalEntry s.CAL_V ch k →
      ∃ v, exec (.convV ch raw) s = .next { s with RVAL0 := some v, STATUS := some .OK, BUSY := false, SEQ := none } ∧
        (∀ q, s.cfg.P_NUMERICS = .EXACT → k = .exact q → v = .exact (raw.toNat * (35484044 / 10 ^ 9) * q)) ∧
        (∀ b, s.cfg.P_NUMERICS = .BINARY32 → k = .binary32 b →
          v = .binary32 (B32.mul (B32.mul (B32.ofRat raw.toNat) 0x3D1157B8) b)))

/-- R173: `CONV_I`, opcode 0x41, gives `ILLEGAL_OPERAND` above 0x1FFFF, then the sentinel and `INVALID_CHANNEL` above channel 2,
and else writes `raw / 24 * 0.2143 * CAL_I[ch]` with a division in `Num`; under `BINARY32` `lit(KI) = 0x3E5B7176`, and 24 is the
pattern 0x41C00000. Nothing else is written. -/
def Obligations.ConvIScalesByTheCurrentWeight : Prop :=
  ∀ (s : State) (ch : Byte) (raw : BitVec 24),
    decode [0x41, ch, byteOf raw 0, byteOf raw 1, byteOf raw 2] = .ok (.convI ch raw) ∧
    (0x1FFFF < raw.toNat →
      exec (.convI ch raw) s = .next { s with STATUS := some .ILLEGAL_OPERAND, BUSY := false, SEQ := none }) ∧
    (raw.toNat ≤ 0x1FFFF → 2 < ch.toNat →
      exec (.convI ch raw) s = .next { s with
        RVAL0 := some (minusOne s.cfg.P_NUMERICS), STATUS := some .INVALID_CHANNEL, BUSY := false, SEQ := none }) ∧
    (∀ k, raw.toNat ≤ 0x1FFFF → CalEntry s.CAL_I ch k →
      ∃ v, exec (.convI ch raw) s = .next { s with RVAL0 := some v, STATUS := some .OK, BUSY := false, SEQ := none } ∧
        (∀ q, s.cfg.P_NUMERICS = .EXACT → k = .exact q → v = .exact ((raw.toNat : ℚ) / 24 * (2143 / 10 ^ 4) * q)) ∧
        (∀ b, s.cfg.P_NUMERICS = .BINARY32 → k = .binary32 b →
          v = .binary32 (B32.mul (B32.mul (B32.div (B32.ofRat raw.toNat) 0x41C00000) 0x3E5B7176) b)))

/-- R174: `CONV_P`, opcode 0x42, gives the sentinel and `INVALID_CHANNEL` above channel 2, and else writes `raw * 0.0001217 *
CAL_V[ch] * CAL_I[ch]` of the signed operand; under `BINARY32` `lit(KP) = 0x38FF3931`. Nothing else is written. -/
def Obligations.ConvPScalesByThePowerWeight : Prop :=
  ∀ (s : State) (ch : Byte) (raw : BitVec 32),
    decode [0x42, ch, byteOf raw 0, byteOf raw 1, byteOf raw 2, byteOf raw 3] = .ok (.convP ch raw) ∧
    (2 < ch.toNat →
      exec (.convP ch raw) s = .next { s with
        RVAL0 := some (minusOne s.cfg.P_NUMERICS), STATUS := some .INVALID_CHANNEL, BUSY := false, SEQ := none }) ∧
    (∀ kv ki, CalEntry s.CAL_V ch kv → CalEntry s.CAL_I ch ki →
      ∃ v, exec (.convP ch raw) s = .next { s with RVAL0 := some v, STATUS := some .OK, BUSY := false, SEQ := none } ∧
        (∀ qv qi, s.cfg.P_NUMERICS = .EXACT → kv = .exact qv → ki = .exact qi →
          v = .exact ((raw.toInt : ℚ) * (1217 / 10 ^ 7) * qv * qi)) ∧
        (∀ bv bi, s.cfg.P_NUMERICS = .BINARY32 → kv = .binary32 bv → ki = .binary32 bi →
          v = .binary32 (B32.mul (B32.mul (B32.mul (B32.ofRat raw.toInt) 0x38FF3931) bv) bi)))

/-- R175: `CONV_E`, opcode 0x43, writes `raw * 0.00000000886162` of the unsigned operand, without calibration; under `BINARY32`
`lit(KE) = 0x32183DD1`. Nothing else is written. -/
def Obligations.ConvEScalesByTheEnergyWeight : Prop :=
  ∀ (s : State) (raw : BitVec 32),
    decode [0x43, byteOf raw 0, byteOf raw 1, byteOf raw 2, byteOf raw 3] = .ok (.convE raw) ∧
    ∃ v, exec (.convE raw) s = .next { s with RVAL0 := some v, STATUS := some .OK, BUSY := false, SEQ := none } ∧
      (s.cfg.P_NUMERICS = .EXACT → v = .exact ((raw.toNat : ℚ) * (886162 / 10 ^ 14))) ∧
      (s.cfg.P_NUMERICS = .BINARY32 → v = .binary32 (B32.mul (B32.ofRat raw.toNat) 0x32183DD1))

/-- R176 under `EXACT`: with multipliers 1 a conversion is raw times its weight; it is linear in the multipliers; raw 0 gives 0.
The spec marks the rule "derived: from rules R171 to R175". -/
def Obligations.ExactConversionsObeyTheLaws : Prop :=
  (∀ r : Int,
    convV .EXACT (.exact 1) r = .exact (r * (35484044 / 10 ^ 9)) ∧
    convI .EXACT (.exact 1) r = .exact (r * (2143 / 10 ^ 4) / 24) ∧
    convP .EXACT (.exact 1) (.exact 1) r = .exact (r * (1217 / 10 ^ 7)) ∧
    convE .EXACT r = .exact (r * (886162 / 10 ^ 14))) ∧
  (∀ (r : Int) (k kv ki : ℚ), 0 < k → 0 < kv → 0 < ki →
    (∀ x, convV .EXACT (.exact 1) r = .exact x → convV .EXACT (.exact k) r = .exact (k * x)) ∧
    (∀ x, convI .EXACT (.exact 1) r = .exact x → convI .EXACT (.exact k) r = .exact (k * x)) ∧
    (∀ x, convP .EXACT (.exact 1) (.exact 1) r = .exact x →
      convP .EXACT (.exact kv) (.exact ki) r = .exact (kv * ki * x))) ∧
  (∀ k kv ki : ℚ,
    convV .EXACT (.exact k) 0 = .exact 0 ∧ convI .EXACT (.exact k) 0 = .exact 0 ∧
    convP .EXACT (.exact kv) (.exact ki) 0 = .exact 0 ∧ convE .EXACT 0 = .exact 0)

/-- R174 "the sign of the result is the sign of `raw`, because both multipliers are positive", under `EXACT`. -/
def Obligations.PowerHasTheSignOfRaw : Prop :=
  ∀ (r : Int) (kv ki x : ℚ), 0 < kv → 0 < ki → convP .EXACT (.exact kv) (.exact ki) r = .exact x →
    (0 < x ↔ 0 < r) ∧ (x < 0 ↔ r < 0) ∧ (x = 0 ↔ r = 0)

/-- R171: rounding to binary32 is to nearest, ties to even. When the result is finite no finite pattern is nearer, and when
another value is as near the result's last bit is 0. The rounding is the spec's "from general knowledge, not in source" (log entry
16). -/
def Obligations.RoundingIsToNearestTiesToEven : Prop :=
  ∀ (q : ℚ) (b : BitVec 32), B32.isFinite (B32.ofRat q) = true → B32.isFinite b = true →
    |binary32Value (B32.ofRat q) - q| ≤ |binary32Value b - q| ∧
    (|binary32Value (B32.ofRat q) - q| = |binary32Value b - q| → binary32Value b ≠ binary32Value (B32.ofRat q) →
      (B32.ofRat q).getLsbD 0 = false)

/-- R171, I6: rounding overflows to infinity exactly from the midpoint above the greatest finite value on, with the sign of the
argument, and never gives a NaN (log entry 16). -/
def Obligations.RoundingOverflowsToInfinity : Prop :=
  ∀ q : ℚ,
    (B32.isFinite (B32.ofRat q) = true ↔ |q| < 2 ^ 128 - 2 ^ 103) ∧
    (2 ^ 128 - 2 ^ 103 ≤ q → B32.ofRat q = 0x7F800000) ∧
    (q ≤ -(2 ^ 128 - 2 ^ 103) → B32.ofRat q = 0xFF800000)

/-- R171: a value that binary32 has is not changed by rounding, zero becoming +0 (log entries 16 and 17). -/
def Obligations.RoundingKeepsBinary32Values : Prop :=
  ∀ b : BitVec 32, B32.isFinite b = true → b ≠ 0x80000000 → B32.ofRat (binary32Value b) = b

/-- R171 "Each `⊗` and `⊘` is the exact product or quotient rounded to binary32", where that is not zero (log entry 16). -/
def Obligations.Binary32OperationsRoundOnce : Prop :=
  ∀ a b : BitVec 32, B32.isFinite a = true → B32.isFinite b = true →
    binary32Value a ≠ 0 → binary32Value b ≠ 0 →
    B32.mul a b = B32.ofRat (binary32Value a * binary32Value b) ∧
    B32.div a b = B32.ofRat (binary32Value a / binary32Value b)

/-! ## Address map and measurement reads -/

/-- R190, R191: `ADDR_LOOKUP`, opcode 0x15, answers the seven addresses of the table, `ILLEGAL_OPERAND` on a quantity above 2, and
`INVALID_CHANNEL` everywhere else, `RINT` unchanged on an error. -/
def Obligations.AddrLookupAnswersTheTable : Prop :=
  ∀ (s : State) (ch qty : Byte),
    decode [0x15, ch, qty] = .ok (.addrLookup ch qty) ∧
    (∀ a, (ch, qty, a) ∈ addressTable s.cfg.P_ADDR_MAP →
      exec (.addrLookup ch qty) s = .next { s with
        RINT := some (a.toNat : Int), STATUS := some .OK, BUSY := false, SEQ := none }) ∧
    (2 < qty.toNat →
      exec (.addrLookup ch qty) s = .next { s with STATUS := some .ILLEGAL_OPERAND, BUSY := false, SEQ := none }) ∧
    (qty.toNat ≤ 2 → (∀ a, (ch, qty, a) ∉ addressTable s.cfg.P_ADDR_MAP) →
      exec (.addrLookup ch qty) s = .next { s with STATUS := some .INVALID_CHANNEL, BUSY := false, SEQ := none })

/-- R193: `READ_RMS` latches as R142 says, reads the channel's RMS register once, and writes the voltage and the current of that
one payload. -/
def Obligations.ReadRmsReadsBothFieldsOfOneFrame : Prop :=
  ∀ (s : State) (ch a : Byte) (kv ki : NumVal), BusUsable s → s.AUTO_LATCH = true ∨ LatchAvailable s.cfg →
    (ch = 1 ∧ a = s.cfg.P_ADDR_MAP.A_RMS1) ∨ (ch = 2 ∧ a = s.cfg.P_ADDR_MAP.A_RMS2) →
    CalEntry s.CAL_V ch kv → CalEntry s.CAL_I ch ki →
    ReadCompletes (.readRms ch) s (ReadLatch s) a 0 (fun p t => { t with
      RVAL0 := some (convV s.cfg.P_NUMERICS kv (field_0_14 p))
      RVAL1 := some (convI s.cfg.P_NUMERICS ki (field_15_32 p)) })

/-- R194: `READ_RMS_V`. -/
def Obligations.ReadRmsVReadsTheVoltage : Prop :=
  ∀ (s : State) (ch a : Byte) (kv : NumVal), BusUsable s → s.AUTO_LATCH = true ∨ LatchAvailable s.cfg →
    (ch = 1 ∧ a = s.cfg.P_ADDR_MAP.A_RMS1) ∨ (ch = 2 ∧ a = s.cfg.P_ADDR_MAP.A_RMS2) →
    CalEntry s.CAL_V ch kv →
    ReadCompletes (.readRmsV ch) s (ReadLatch s) a 0 (fun p t => { t with
      RVAL0 := some (convV s.cfg.P_NUMERICS kv (field_0_14 p)) })

/-- R195: `READ_RMS_I`. -/
def Obligations.ReadRmsIReadsTheCurrent : Prop :=
  ∀ (s : State) (ch a : Byte) (ki : NumVal), BusUsable s → s.AUTO_LATCH = true ∨ LatchAvailable s.cfg →
    (ch = 1 ∧ a = s.cfg.P_ADDR_MAP.A_RMS1) ∨ (ch = 2 ∧ a = s.cfg.P_ADDR_MAP.A_RMS2) →
    CalEntry s.CAL_I ch ki →
    ReadCompletes (.readRmsI ch) s (ReadLatch s) a 0 (fun p t => { t with
      RVAL0 := some (convI s.cfg.P_NUMERICS ki (field_15_32 p)) })

/-- R196: `READ_POWER`. -/
def Obligations.ReadPowerReadsTheSignedPower : Prop :=
  ∀ (s : State) (ch a : Byte) (kv ki : NumVal), BusUsable s → s.AUTO_LATCH = true ∨ LatchAvailable s.cfg →
    (ch = 1 ∧ a = s.cfg.P_ADDR_MAP.A_PWR1) ∨ (ch = 2 ∧ a = s.cfg.P_ADDR_MAP.A_PWR2) →
    CalEntry s.CAL_V ch kv → CalEntry s.CAL_I ch ki →
    ReadCompletes (.readPower ch) s (ReadLatch s) a 0 (fun p t => { t with
      RVAL0 := some (convP s.cfg.P_NUMERICS kv ki (field_0_28 p)) })

/-- R197: `READ_ENERGY` never latches; channel 0, and with `P_ENERGY_CH_PATH = SETTLED` the others too, take the settle path; the
result has no calibration. That the settle path sends the address in a transaction of its own is the spec's own inference (D18
"Mark this choice INFERRED"). -/
def Obligations.ReadEnergyTakesItsPath : Prop :=
  ∀ (s : State) (ch a : Byte) (n : Nat), BusUsable s →
    (ch = 0 ∧ a = s.cfg.P_ADDR_MAP.A_ENT ∧ n = 12) ∨
    (((ch = 1 ∧ a = s.cfg.P_ADDR_MAP.A_EN1) ∨ (ch = 2 ∧ a = s.cfg.P_ADDR_MAP.A_EN2)) ∧
      n = if s.cfg.P_ENERGY_CH_PATH = .SETTLED then 12 else 0) →
    ReadCompletes (.readEnergy ch) s (fun evs => evs = []) a n (fun p t => { t with
      RVAL0 := some (convE s.cfg.P_NUMERICS (field_u32 p)) })

/-- R199: when the IC answers 0x00 to every transfer, every measurement read on channel 1 or 2, and the total energy, ends with
`OK` and writes zero. At most 24 bytes are transferred. The spec marks the rule "derived". R199 says "equal to 0"; that zero is
the pattern of +0 under `BINARY32` is the model's choice (log entry 17). A latching read with no latch and `AUTO_LATCH` false is
`BusCommandsNeedBringupAndALatch`'s, and `READ_ENERGY` then is `ReadEnergyTakesItsPath`'s. -/
def Obligations.ZeroBusReadsZero : Prop :=
  ∀ (s : State) (n : Nat), BusUsable s → CalInv s → s.AUTO_LATCH = true ∨ LatchAvailable s.cfg →
    24 ≤ n → s.IC = List.replicate n 0x00 →
    ∀ i ∈ latchingReads 1 ++ latchingReads 2 ++ [Instr.readEnergy 0, .readEnergy 1, .readEnergy 2],
      ∃ t, exec i s = .next t ∧ t.STATUS = some .OK ∧ t.RVAL0 = some (zeroOf s.cfg.P_NUMERICS) ∧
        (i = .readRms 1 ∨ i = .readRms 2 → t.RVAL1 = some (zeroOf s.cfg.P_NUMERICS))

/-- R200, R66: no command's outcome depends on the payload an earlier read left in `PB`: with another one the outcome is the same,
but for `PB` itself where the command does not write it. -/
def Obligations.NoCommandReadsAnEarlierPayload : Prop :=
  ∀ (i : Instr) (s t : State) (pb : Option Payload), exec i s = .next t →
    exec i { s with PB := pb } = .next t ∨ exec i { s with PB := pb } = .next { t with PB := pb }

/-- R197 and R175: `SET_CAL` never changes an energy value: with other multipliers the outcome differs in them alone. -/
def Obligations.EnergyIgnoresCalibration : Prop :=
  ∀ (s t : State) (i : Instr) (cv ci : CalRow), ((∃ ch, i = .readEnergy ch) ∨ (∃ raw, i = .convE raw)) →
    exec i s = .next t → exec i { s with CAL_V := cv, CAL_I := ci } = .next { t with CAL_V := cv, CAL_I := ci }

/-! ## Handle setters -/

/-- R220: `SET_CAL`, opcode 0x20. Two strictly positive finite binary32 patterns are written for all three channels, as the
rationals they denote or as themselves; any other pattern, a zero of either sign, a negative, an infinity or a NaN, gives
`INVALID_CAL` and keeps the table. -/
def Obligations.SetCalAcceptsPositiveFinite : Prop :=
  ∀ (s : State) (kv ki : BitVec 32),
    decode [0x20, byteOf kv 0, byteOf kv 1, byteOf kv 2, byteOf kv 3, byteOf ki 0, byteOf ki 1, byteOf ki 2, byteOf ki 3] =
      .ok (.setCal kv ki) ∧
    ((0 < kv.toNat ∧ kv.toNat < 0x7F800000) ∧ (0 < ki.toNat ∧ ki.toNat < 0x7F800000) →
      ∃ v i, exec (.setCal kv ki) s = .next { s with
          CAL_V := ⟨v, v, v⟩, CAL_I := ⟨i, i, i⟩, STATUS := some .OK, BUSY := false, SEQ := none } ∧
        (s.cfg.P_NUMERICS = .EXACT → v = .exact (binary32Value kv) ∧ i = .exact (binary32Value ki)) ∧
        (s.cfg.P_NUMERICS = .BINARY32 → v = .binary32 kv ∧ i = .binary32 ki)) ∧
    (¬((0 < kv.toNat ∧ kv.toNat < 0x7F800000) ∧ (0 < ki.toNat ∧ ki.toNat < 0x7F800000)) →
      exec (.setCal kv ki) s = .next { s with STATUS := some .INVALID_CAL, BUSY := false, SEQ := none })

/-- R221, R222: the flag setters, opcodes 0x21 and 0x22, write their flag from 0x00 or 0x01 and give `ILLEGAL_OPERAND` on the
other 254 bytes. That no rule reads `CRC_EN` (R222) is `CrcFlagIsInert`'s. -/
def Obligations.FlagSettersWriteTheirFlag : Prop :=
  ∀ (s : State) (flag : Byte),
    decode [0x21, flag] = .ok (.setAutoLatch flag) ∧ decode [0x22, flag] = .ok (.setCrc flag) ∧
    (flag = 0x00 ∨ flag = 0x01 →
      exec (.setAutoLatch flag) s = .next { s with
        AUTO_LATCH := decide (flag = 0x01), STATUS := some .OK, BUSY := false, SEQ := none } ∧
      exec (.setCrc flag) s = .next { s with
        CRC_EN := decide (flag = 0x01), STATUS := some .OK, BUSY := false, SEQ := none }) ∧
    (2 ≤ flag.toNat →
      exec (.setAutoLatch flag) s = .next { s with STATUS := some .ILLEGAL_OPERAND, BUSY := false, SEQ := none } ∧
      exec (.setCrc flag) s = .next { s with STATUS := some .ILLEGAL_OPERAND, BUSY := false, SEQ := none })

/-- R222: "no rule reads `CRC_EN`": every command but `SET_CRC` behaves the same with the other value. -/
def Obligations.CrcFlagIsInert : Prop :=
  ∀ (i : Instr) (s t : State) (b : Bool), i.op ≠ .SET_CRC → exec i s = .next t →
    exec i { s with CRC_EN := b } = .next { t with CRC_EN := b }

/-- R39: no rule reads `P_LINE_FREQ_HZ`. That no rule reads `P_TIME_UNIT` either, so that bring-up has the same events under both
units, is the model's choice (log entry 23). -/
def Obligations.LineFrequencyAndTimeUnitAreInert : Prop :=
  ∀ (i : Instr) (s t : State) (f : Nat) (u : TimeUnit), exec i s = .next t →
    exec i { s with cfg := { s.cfg with P_LINE_FREQ_HZ := f, P_TIME_UNIT := u } } =
      .next { t with cfg := { s.cfg with P_LINE_FREQ_HZ := f, P_TIME_UNIT := u } }

/-! ## Errors -/

/-- R241: errors are precise, on any platform. Every command writes `STATUS` and, when that is not `OK`, nothing else has changed
but, on `INVALID_CHANNEL`, the sentinel of the seven commands that leave one: no event is appended. The one other outcome is
R248's: the platform never completes an action, and no status is written, so no command fails part way; that this hung state is a
next state is the model's choice (log entry 8). A string that is no command changes `STATUS` alone, beside taking itself from the
port (R75). -/
def Obligations.ErrorsArePrecise : Prop :=
  (∀ (i : Instr) (s : State), ∃ t, exec i s = .next t ∧
    ((s.STALL ≠ none ∧ t.STATUS = s.STATUS ∧ t.BUSY = s.BUSY) ∨
      ∃ c, t.STATUS = some c ∧
        (c ≠ .OK → t = { s with
          STATUS := some c, BUSY := false, SEQ := none
          RVAL0 := if c = .INVALID_CHANNEL ∧ leavesSentinel i = true then some (minusOne s.cfg.P_NUMERICS) else s.RVAL0 }))) ∧
  (∀ (s : State) (c : Command) (later : List Command) (e : DecodeError), s.BUSY = false → s.PORT = c :: later →
    decode c.bytes = .error e →
    ∃ d, d ≠ .OK ∧ d ≠ .INVALID_CHANNEL ∧ step s = .next { s with PORT := later, STATUS := some d, SEQ := none })

/-- R242: the status is that of the first cause in the order `ILLEGAL_OPERAND`, `INVALID_CHANNEL`, `INVALID_CAL`, `NOT_READY`,
`LATCH_UNAVAILABLE`, and `OK` when there is none. -/
def Obligations.StatusFollowsThePriority : Prop :=
  ∀ (i : Instr) (s : State), s.STALL = none → ∃ t, exec i s = .next t ∧ t.STATUS = some (statusBySpec i s)

/-- R72: the operands are legal exactly when the command draws no operand error. -/
def Obligations.LegalOperandsDrawNoOperandError : Prop :=
  ∀ (i : Instr) (s t : State), s.STALL = none → exec i s = .next t →
    (i.wf = false ↔
      t.STATUS = some .ILLEGAL_OPERAND ∨ t.STATUS = some .INVALID_CHANNEL ∨ t.STATUS = some .INVALID_CAL)

/-- R198, §8: an invalid channel leaves the sentinel of a single-value read, and nothing of `READ_RMS`, with no interface action, in
every state, before bring-up too and whatever the platform does. -/
def Obligations.InvalidChannelTouchesNoInterface : Prop :=
  ∀ (s : State) (ch : Byte), ch.toNat ≠ 1 → ch.toNat ≠ 2 →
    (∀ i ∈ [Instr.readRmsV ch, .readRmsI ch, .readPower ch],
      exec i s = .next { s with
        RVAL0 := some (minusOne s.cfg.P_NUMERICS), STATUS := some .INVALID_CHANNEL, BUSY := false, SEQ := none }) ∧
    exec (.readRms ch) s = .next { s with STATUS := some .INVALID_CHANNEL, BUSY := false, SEQ := none } ∧
    (ch.toNat ≠ 0 →
      exec (.readEnergy ch) s = .next { s with
        RVAL0 := some (minusOne s.cfg.P_NUMERICS), STATUS := some .INVALID_CHANNEL, BUSY := false, SEQ := none })

/-- R22, R272, R140, R198: before the first `INIT` the commands that drive the bus or the pins give `NOT_READY` and do nothing
else; after it, with strategy `PIN` and no sync pin, `LATCH` and, with `AUTO_LATCH` false, the latching reads give
`LATCH_UNAVAILABLE` before any action. -/
def Obligations.BusCommandsNeedBringupAndALatch : Prop :=
  ∀ (i : Instr) (s : State), needsReady i = true → i.wf = true →
    (s.READY = false → exec i s = .next { s with STATUS := some .NOT_READY, BUSY := false, SEQ := none }) ∧
    (s.READY = true → s.cfg.P_LATCH_STRATEGY = .PIN → s.cfg.P_SYNC_PIN = none → needsLatchNow i s = true →
      exec i s = .next { s with STATUS := some .LATCH_UNAVAILABLE, BUSY := false, SEQ := none })

/-! ## The whole machine

The statements about steps take in the hung state of a stalled platform as a next state, which is the model's choice (log
entry 8). -/

/-- R37, R35, R6: which commands write which elements, for every outcome, the hung one too (log entry 8). -/
def Obligations.OnlyTheListedCommandsWrite : Prop :=
  ∀ (i : Instr) (s t : State), exec i s = .next t →
    (i.op ∉ [Op.INIT] → t.READY = s.READY) ∧
    (i.op ∉ [Op.SET_AUTO_LATCH] → t.AUTO_LATCH = s.AUTO_LATCH) ∧
    (i.op ∉ [Op.SET_CRC] → t.CRC_EN = s.CRC_EN) ∧
    (i.op ∉ [Op.SET_CAL] → t.CAL_V = s.CAL_V ∧ t.CAL_I = s.CAL_I) ∧
    (i.op ∉ [Op.CONV_V, .CONV_I, .CONV_P, .CONV_E, .READ_RMS, .READ_RMS_V, .READ_RMS_I, .READ_POWER, .READ_ENERGY] →
      t.RVAL0 = s.RVAL0) ∧
    (i.op ∉ [Op.READ_RMS] → t.RVAL1 = s.RVAL1) ∧
    (i.op ∉ [Op.INIT, .ADDR_LOOKUP, .FIELD_0_14, .FIELD_15_32, .FIELD_0_28, .FIELD_U32] → t.RINT = s.RINT) ∧
    (i.op ∉ [Op.READ_FRAME, .READ_FRAME_SETTLED, .READ_RMS, .READ_RMS_V, .READ_RMS_I, .READ_POWER, .READ_ENERGY] →
      t.PB = s.PB) ∧
    (i.op ∉ [Op.INIT, .SEND_FRAME, .READ_FRAME, .READ_FRAME_SETTLED, .LATCH, .READ_RMS, .READ_RMS_V, .READ_RMS_I,
        .READ_POWER, .READ_ENERGY] →
      t.PIN = s.PIN ∧ t.BUS_BEGUN = s.BUS_BEGUN ∧ t.IN_TXN = s.IN_TXN ∧ t.TRACE = s.TRACE ∧ t.IC = s.IC ∧
      t.STALL = s.STALL) ∧
    t.PORT = s.PORT ∧ t.cfg = s.cfg

/-- R33, R22, R31, R6, R21: no step removes an event, clears `READY` or `BUS_BEGUN`, or changes the configuration, and each takes
one command from the port. -/
def Obligations.StepsNeverUndo : Prop :=
  ∀ s t : State, step s = .next t →
    s.TRACE <+: t.TRACE ∧ (s.READY = true → t.READY = true) ∧ (s.BUS_BEGUN = true → t.BUS_BEGUN = true) ∧
    t.cfg = s.cfg ∧ t.PORT = s.PORT.tail

/-- R248: a platform that stalls after `k` actions. A command that would perform the events `evs` completes as it would have when
`k` is enough; when it is not, no result and no status is written, and the engine stays `BUSY` with no further step. That exactly
the first `k` events have then happened, nothing of the incomplete action being seen, is the model's choice (log entry 8). So are
the fault with which `step` answers (log entry 9) and the step position that counts the completed actions (log entry 10), both
read from the spec by inference. -/
def Obligations.StalledPlatformCutsTheCommandShort : Prop :=
  ∀ (i : Instr) (s t : State) (evs : List Event) (k : Nat), s.STALL = none → s.BUSY = true →
    exec i s = .next t → t.TRACE = s.TRACE ++ evs →
    (evs.length ≤ k → exec i { s with STALL := some k } = .next { t with STALL := some (k - evs.length) }) ∧
    (k < evs.length →
      ∃ h, exec i { s with STALL := some k } = .next h ∧
        h = { s.afterEvents (evs.take k) with SEQ := s.SEQ.map (· + k), STALL := some 0 } ∧
        step h = .fault .stuck)

/-- R21, R32, R36: every step keeps `IN_TXN` false while `BUSY` is, and the step position alive exactly while `BUSY` is true. -/
def Obligations.StepKeepsIdleInv : Prop := ∀ s t : State, IdleInv s → step s = .next t → IdleInv t

/-- R25, R224: every step keeps the calibration table uniform, its multipliers strictly positive, finite and of the selected
domain. -/
def Obligations.StepKeepsCalInv : Prop := ∀ s t : State, CalInv s → step s = .next t → CalInv t

/-- R30, R31, R33: every step keeps `PIN` and `BUS_BEGUN` what the trace says. -/
def Obligations.StepKeepsInterfaceInv : Prop := ∀ s t : State, InterfaceInv s → step s = .next t → InterfaceInv t

/-- R120, R57: every step keeps the transaction discipline of the trace: each `TB(BUSCFG)` is followed by chip-select low, 4 or 16
transfers, chip-select high and `TE`, no transaction begins inside another, and `IN_TXN` says where the trace stands. -/
def Obligations.StepKeepsTxnInv : Prop := ∀ s t : State, IdleInv s → TxnInv s → step s = .next t → TxnInv t

/-- R22, R31, R271: every step keeps that `READY` implies `BUS_BEGUN` and that an idle engine has done nothing before bring-up.
From R101, R102, R120, R140 and R30: after bring-up an idle engine has chip-select, reset and, if present, the sync pin last
driven high, because each of these sequences ends with its pin high. -/
def Obligations.StepKeepsBringupInv : Prop := ∀ s t : State, BringupInv s → step s = .next t → BringupInv t

/-- R28: every step keeps `RINT` in -2^31 to 2^32-1. -/
def Obligations.StepKeepsRintInv : Prop := ∀ s t : State, RintInv s → step s = .next t → RintInv t

/-- R27, R12: every step keeps the values of `RVAL0` and `RVAL1` in the selected domain, none of them a NaN. -/
def Obligations.StepKeepsRvalInv : Prop := ∀ s t : State, CalInv s → RvalInv s → step s = .next t → RvalInv t

/-- The invariants hold after reset, under every configuration. -/
def Obligations.ResetMeetsTheInvariants : Prop :=
  ∀ c : Config, IdleInv (State.resetWith c) ∧ CalInv (State.resetWith c) ∧ InterfaceInv (State.resetWith c) ∧
    TxnInv (State.resetWith c) ∧ BringupInv (State.resetWith c) ∧ RintInv (State.resetWith c) ∧
    RvalInv (State.resetWith c)
end

