-- ==== Sys2Proof/Laws/State.lean ====
section
/-! SUPPORT. One lemma for each field of the state and each named update of it, so that no later proof unfolds an update. -/

namespace Sys2Proof.Machine

/-! ### `State.perform` -/

@[simp] theorem State.perform_cfg (s : State) (e : Event) : (s.perform e).cfg = s.cfg := rfl
@[simp] theorem State.perform_BUSY (s : State) (e : Event) : (s.perform e).BUSY = s.BUSY := rfl
@[simp] theorem State.perform_READY (s : State) (e : Event) : (s.perform e).READY = s.READY := rfl
@[simp] theorem State.perform_AUTO_LATCH (s : State) (e : Event) : (s.perform e).AUTO_LATCH = s.AUTO_LATCH := rfl
@[simp] theorem State.perform_CRC_EN (s : State) (e : Event) : (s.perform e).CRC_EN = s.CRC_EN := rfl
@[simp] theorem State.perform_CAL_V (s : State) (e : Event) : (s.perform e).CAL_V = s.CAL_V := rfl
@[simp] theorem State.perform_CAL_I (s : State) (e : Event) : (s.perform e).CAL_I = s.CAL_I := rfl
@[simp] theorem State.perform_STATUS (s : State) (e : Event) : (s.perform e).STATUS = s.STATUS := rfl
@[simp] theorem State.perform_RVAL0 (s : State) (e : Event) : (s.perform e).RVAL0 = s.RVAL0 := rfl
@[simp] theorem State.perform_RVAL1 (s : State) (e : Event) : (s.perform e).RVAL1 = s.RVAL1 := rfl
@[simp] theorem State.perform_RINT (s : State) (e : Event) : (s.perform e).RINT = s.RINT := rfl
@[simp] theorem State.perform_PB (s : State) (e : Event) : (s.perform e).PB = s.PB := rfl
@[simp] theorem State.perform_PIN (s : State) (e : Event) : (s.perform e).PIN = s.PIN := rfl
@[simp] theorem State.perform_BUS_BEGUN (s : State) (e : Event) : (s.perform e).BUS_BEGUN = s.BUS_BEGUN := rfl
@[simp] theorem State.perform_IN_TXN (s : State) (e : Event) : (s.perform e).IN_TXN = s.IN_TXN := rfl
@[simp] theorem State.perform_TRACE (s : State) (e : Event) : (s.perform e).TRACE = s.TRACE ++ [e] := rfl
@[simp] theorem State.perform_SEQ (s : State) (e : Event) : (s.perform e).SEQ = s.SEQ.map (· + 1) := rfl
@[simp] theorem State.perform_PORT (s : State) (e : Event) : (s.perform e).PORT = s.PORT := rfl
@[simp] theorem State.perform_IC (s : State) (e : Event) : (s.perform e).IC = s.IC := rfl
@[simp] theorem State.perform_STALL (s : State) (e : Event) : (s.perform e).STALL = s.STALL.map (· - 1) := rfl

/-! ### `State.changePin` -/

@[simp] theorem State.changePin_cfg (s : State) (pin : PinId) (f : PinState → PinState) : (s.changePin pin f).cfg = s.cfg := rfl
@[simp] theorem State.changePin_BUSY (s : State) (pin : PinId) (f : PinState → PinState) : (s.changePin pin f).BUSY = s.BUSY := rfl
@[simp] theorem State.changePin_READY (s : State) (pin : PinId) (f : PinState → PinState) : (s.changePin pin f).READY = s.READY := rfl
@[simp] theorem State.changePin_AUTO_LATCH (s : State) (pin : PinId) (f : PinState → PinState) : (s.changePin pin f).AUTO_LATCH = s.AUTO_LATCH := rfl
@[simp] theorem State.changePin_CRC_EN (s : State) (pin : PinId) (f : PinState → PinState) : (s.changePin pin f).CRC_EN = s.CRC_EN := rfl
@[simp] theorem State.changePin_CAL_V (s : State) (pin : PinId) (f : PinState → PinState) : (s.changePin pin f).CAL_V = s.CAL_V := rfl
@[simp] theorem State.changePin_CAL_I (s : State) (pin : PinId) (f : PinState → PinState) : (s.changePin pin f).CAL_I = s.CAL_I := rfl
@[simp] theorem State.changePin_STATUS (s : State) (pin : PinId) (f : PinState → PinState) : (s.changePin pin f).STATUS = s.STATUS := rfl
@[simp] theorem State.changePin_RVAL0 (s : State) (pin : PinId) (f : PinState → PinState) : (s.changePin pin f).RVAL0 = s.RVAL0 := rfl
@[simp] theorem State.changePin_RVAL1 (s : State) (pin : PinId) (f : PinState → PinState) : (s.changePin pin f).RVAL1 = s.RVAL1 := rfl
@[simp] theorem State.changePin_RINT (s : State) (pin : PinId) (f : PinState → PinState) : (s.changePin pin f).RINT = s.RINT := rfl
@[simp] theorem State.changePin_PB (s : State) (pin : PinId) (f : PinState → PinState) : (s.changePin pin f).PB = s.PB := rfl
@[simp] theorem State.changePin_PIN (s : State) (pin : PinId) (f : PinState → PinState) : (s.changePin pin f).PIN = s.PIN.update s.cfg pin f := rfl
@[simp] theorem State.changePin_BUS_BEGUN (s : State) (pin : PinId) (f : PinState → PinState) : (s.changePin pin f).BUS_BEGUN = s.BUS_BEGUN := rfl
@[simp] theorem State.changePin_IN_TXN (s : State) (pin : PinId) (f : PinState → PinState) : (s.changePin pin f).IN_TXN = s.IN_TXN := rfl
@[simp] theorem State.changePin_TRACE (s : State) (pin : PinId) (f : PinState → PinState) : (s.changePin pin f).TRACE = s.TRACE := rfl
@[simp] theorem State.changePin_SEQ (s : State) (pin : PinId) (f : PinState → PinState) : (s.changePin pin f).SEQ = s.SEQ := rfl
@[simp] theorem State.changePin_PORT (s : State) (pin : PinId) (f : PinState → PinState) : (s.changePin pin f).PORT = s.PORT := rfl
@[simp] theorem State.changePin_IC (s : State) (pin : PinId) (f : PinState → PinState) : (s.changePin pin f).IC = s.IC := rfl
@[simp] theorem State.changePin_STALL (s : State) (pin : PinId) (f : PinState → PinState) : (s.changePin pin f).STALL = s.STALL := rfl

/-! ### `State.complete` -/

@[simp] theorem State.complete_cfg (s : State) (c : Status) : (s.complete c).cfg = s.cfg := rfl
@[simp] theorem State.complete_BUSY (s : State) (c : Status) : (s.complete c).BUSY = false := rfl
@[simp] theorem State.complete_READY (s : State) (c : Status) : (s.complete c).READY = s.READY := rfl
@[simp] theorem State.complete_AUTO_LATCH (s : State) (c : Status) : (s.complete c).AUTO_LATCH = s.AUTO_LATCH := rfl
@[simp] theorem State.complete_CRC_EN (s : State) (c : Status) : (s.complete c).CRC_EN = s.CRC_EN := rfl
@[simp] theorem State.complete_CAL_V (s : State) (c : Status) : (s.complete c).CAL_V = s.CAL_V := rfl
@[simp] theorem State.complete_CAL_I (s : State) (c : Status) : (s.complete c).CAL_I = s.CAL_I := rfl
@[simp] theorem State.complete_STATUS (s : State) (c : Status) : (s.complete c).STATUS = some c := rfl
@[simp] theorem State.complete_RVAL0 (s : State) (c : Status) : (s.complete c).RVAL0 = s.RVAL0 := rfl
@[simp] theorem State.complete_RVAL1 (s : State) (c : Status) : (s.complete c).RVAL1 = s.RVAL1 := rfl
@[simp] theorem State.complete_RINT (s : State) (c : Status) : (s.complete c).RINT = s.RINT := rfl
@[simp] theorem State.complete_PB (s : State) (c : Status) : (s.complete c).PB = s.PB := rfl
@[simp] theorem State.complete_PIN (s : State) (c : Status) : (s.complete c).PIN = s.PIN := rfl
@[simp] theorem State.complete_BUS_BEGUN (s : State) (c : Status) : (s.complete c).BUS_BEGUN = s.BUS_BEGUN := rfl
@[simp] theorem State.complete_IN_TXN (s : State) (c : Status) : (s.complete c).IN_TXN = s.IN_TXN := rfl
@[simp] theorem State.complete_TRACE (s : State) (c : Status) : (s.complete c).TRACE = s.TRACE := rfl
@[simp] theorem State.complete_SEQ (s : State) (c : Status) : (s.complete c).SEQ = none := rfl
@[simp] theorem State.complete_PORT (s : State) (c : Status) : (s.complete c).PORT = s.PORT := rfl
@[simp] theorem State.complete_IC (s : State) (c : Status) : (s.complete c).IC = s.IC := rfl
@[simp] theorem State.complete_STALL (s : State) (c : Status) : (s.complete c).STALL = s.STALL := rfl

/-! ### `State.accept` -/

@[simp] theorem State.accept_cfg (s : State) (later : List Command) : (s.accept later).cfg = s.cfg := rfl
@[simp] theorem State.accept_BUSY (s : State) (later : List Command) : (s.accept later).BUSY = true := rfl
@[simp] theorem State.accept_READY (s : State) (later : List Command) : (s.accept later).READY = s.READY := rfl
@[simp] theorem State.accept_AUTO_LATCH (s : State) (later : List Command) : (s.accept later).AUTO_LATCH = s.AUTO_LATCH := rfl
@[simp] theorem State.accept_CRC_EN (s : State) (later : List Command) : (s.accept later).CRC_EN = s.CRC_EN := rfl
@[simp] theorem State.accept_CAL_V (s : State) (later : List Command) : (s.accept later).CAL_V = s.CAL_V := rfl
@[simp] theorem State.accept_CAL_I (s : State) (later : List Command) : (s.accept later).CAL_I = s.CAL_I := rfl
@[simp] theorem State.accept_STATUS (s : State) (later : List Command) : (s.accept later).STATUS = s.STATUS := rfl
@[simp] theorem State.accept_RVAL0 (s : State) (later : List Command) : (s.accept later).RVAL0 = s.RVAL0 := rfl
@[simp] theorem State.accept_RVAL1 (s : State) (later : List Command) : (s.accept later).RVAL1 = s.RVAL1 := rfl
@[simp] theorem State.accept_RINT (s : State) (later : List Command) : (s.accept later).RINT = s.RINT := rfl
@[simp] theorem State.accept_PB (s : State) (later : List Command) : (s.accept later).PB = s.PB := rfl
@[simp] theorem State.accept_PIN (s : State) (later : List Command) : (s.accept later).PIN = s.PIN := rfl
@[simp] theorem State.accept_BUS_BEGUN (s : State) (later : List Command) : (s.accept later).BUS_BEGUN = s.BUS_BEGUN := rfl
@[simp] theorem State.accept_IN_TXN (s : State) (later : List Command) : (s.accept later).IN_TXN = s.IN_TXN := rfl
@[simp] theorem State.accept_TRACE (s : State) (later : List Command) : (s.accept later).TRACE = s.TRACE := rfl
@[simp] theorem State.accept_SEQ (s : State) (later : List Command) : (s.accept later).SEQ = some 0 := rfl
@[simp] theorem State.accept_PORT (s : State) (later : List Command) : (s.accept later).PORT = later := rfl
@[simp] theorem State.accept_IC (s : State) (later : List Command) : (s.accept later).IC = s.IC := rfl
@[simp] theorem State.accept_STALL (s : State) (later : List Command) : (s.accept later).STALL = s.STALL := rfl

/-! ### `State.present` -/

@[simp] theorem State.present_cfg (s : State) (c : Command) : (s.present c).cfg = s.cfg := rfl
@[simp] theorem State.present_BUSY (s : State) (c : Command) : (s.present c).BUSY = false := rfl
@[simp] theorem State.present_READY (s : State) (c : Command) : (s.present c).READY = s.READY := rfl
@[simp] theorem State.present_AUTO_LATCH (s : State) (c : Command) : (s.present c).AUTO_LATCH = s.AUTO_LATCH := rfl
@[simp] theorem State.present_CRC_EN (s : State) (c : Command) : (s.present c).CRC_EN = s.CRC_EN := rfl
@[simp] theorem State.present_CAL_V (s : State) (c : Command) : (s.present c).CAL_V = s.CAL_V := rfl
@[simp] theorem State.present_CAL_I (s : State) (c : Command) : (s.present c).CAL_I = s.CAL_I := rfl
@[simp] theorem State.present_STATUS (s : State) (c : Command) : (s.present c).STATUS = s.STATUS := rfl
@[simp] theorem State.present_RVAL0 (s : State) (c : Command) : (s.present c).RVAL0 = s.RVAL0 := rfl
@[simp] theorem State.present_RVAL1 (s : State) (c : Command) : (s.present c).RVAL1 = s.RVAL1 := rfl
@[simp] theorem State.present_RINT (s : State) (c : Command) : (s.present c).RINT = s.RINT := rfl
@[simp] theorem State.present_PB (s : State) (c : Command) : (s.present c).PB = s.PB := rfl
@[simp] theorem State.present_PIN (s : State) (c : Command) : (s.present c).PIN = s.PIN := rfl
@[simp] theorem State.present_BUS_BEGUN (s : State) (c : Command) : (s.present c).BUS_BEGUN = s.BUS_BEGUN := rfl
@[simp] theorem State.present_IN_TXN (s : State) (c : Command) : (s.present c).IN_TXN = s.IN_TXN := rfl
@[simp] theorem State.present_TRACE (s : State) (c : Command) : (s.present c).TRACE = s.TRACE := rfl
@[simp] theorem State.present_SEQ (s : State) (c : Command) : (s.present c).SEQ = none := rfl
@[simp] theorem State.present_PORT (s : State) (c : Command) : (s.present c).PORT = c :: s.PORT := rfl
@[simp] theorem State.present_IC (s : State) (c : Command) : (s.present c).IC = s.IC := rfl
@[simp] theorem State.present_STALL (s : State) (c : Command) : (s.present c).STALL = s.STALL := rfl

/-! ### `State.afterEvents` -/

@[simp] theorem State.afterEvents_cfg (s : State) (evs : List Event) : (s.afterEvents evs).cfg = s.cfg := rfl
@[simp] theorem State.afterEvents_BUSY (s : State) (evs : List Event) : (s.afterEvents evs).BUSY = s.BUSY := rfl
@[simp] theorem State.afterEvents_READY (s : State) (evs : List Event) : (s.afterEvents evs).READY = s.READY := rfl
@[simp] theorem State.afterEvents_AUTO_LATCH (s : State) (evs : List Event) : (s.afterEvents evs).AUTO_LATCH = s.AUTO_LATCH := rfl
@[simp] theorem State.afterEvents_CRC_EN (s : State) (evs : List Event) : (s.afterEvents evs).CRC_EN = s.CRC_EN := rfl
@[simp] theorem State.afterEvents_CAL_V (s : State) (evs : List Event) : (s.afterEvents evs).CAL_V = s.CAL_V := rfl
@[simp] theorem State.afterEvents_CAL_I (s : State) (evs : List Event) : (s.afterEvents evs).CAL_I = s.CAL_I := rfl
@[simp] theorem State.afterEvents_STATUS (s : State) (evs : List Event) : (s.afterEvents evs).STATUS = s.STATUS := rfl
@[simp] theorem State.afterEvents_RVAL0 (s : State) (evs : List Event) : (s.afterEvents evs).RVAL0 = s.RVAL0 := rfl
@[simp] theorem State.afterEvents_RVAL1 (s : State) (evs : List Event) : (s.afterEvents evs).RVAL1 = s.RVAL1 := rfl
@[simp] theorem State.afterEvents_RINT (s : State) (evs : List Event) : (s.afterEvents evs).RINT = s.RINT := rfl
@[simp] theorem State.afterEvents_PB (s : State) (evs : List Event) : (s.afterEvents evs).PB = s.PB := rfl
@[simp] theorem State.afterEvents_PIN (s : State) (evs : List Event) : (s.afterEvents evs).PIN = replayPins s.cfg s.PIN evs := rfl
@[simp] theorem State.afterEvents_BUS_BEGUN (s : State) (evs : List Event) : (s.afterEvents evs).BUS_BEGUN = (s.BUS_BEGUN || begins evs) := rfl
@[simp] theorem State.afterEvents_IN_TXN (s : State) (evs : List Event) : (s.afterEvents evs).IN_TXN = replayInTxn s.IN_TXN evs := rfl
@[simp] theorem State.afterEvents_TRACE (s : State) (evs : List Event) : (s.afterEvents evs).TRACE = s.TRACE ++ evs := rfl
@[simp] theorem State.afterEvents_SEQ (s : State) (evs : List Event) : (s.afterEvents evs).SEQ = s.SEQ := rfl
@[simp] theorem State.afterEvents_PORT (s : State) (evs : List Event) : (s.afterEvents evs).PORT = s.PORT := rfl
@[simp] theorem State.afterEvents_IC (s : State) (evs : List Event) : (s.afterEvents evs).IC = s.IC.drop (received evs).length := rfl
@[simp] theorem State.afterEvents_STALL (s : State) (evs : List Event) : (s.afterEvents evs).STALL = s.STALL := rfl

end Sys2Proof.Machine
end

