-- ==== Sys2Proof/Laws/Blind.lean ====
section
/-! SUPPORT. Changes of the state that the interface actions do not notice (`Blind`): a sequence of actions run after such a
change is the sequence run before it, the change made at its end. -/

namespace Sys2Proof.Machine

/-- The result of a sequence with its state changed. -/
def Flow.mapState {α : Type} (φ : State → State) : Flow α → Flow α
  | .on a s => .on a (φ s)
  | .hung s => .hung (φ s)

/-- A change of the state that no interface action notices. -/
structure Blind (φ : State → State) : Prop where
  cs : ∀ s, (φ s).cfg.P_CS_PIN = s.cfg.P_CS_PIN
  rst : ∀ s, (φ s).cfg.P_RST_PIN = s.cfg.P_RST_PIN
  sync : ∀ s, (φ s).cfg.P_SYNC_PIN = s.cfg.P_SYNC_PIN
  strategy : ∀ s, (φ s).cfg.P_LATCH_STRATEGY = s.cfg.P_LATCH_STRATEGY
  bus : ∀ s, busCfg (φ s).cfg = busCfg s.cfg
  stall : ∀ s, (φ s).STALL = s.STALL
  trace : ∀ s, (φ s).TRACE = s.TRACE
  ic : ∀ s, (φ s).IC = s.IC
  perform : ∀ s e, (φ s).perform e = φ (s.perform e)
  changePin : ∀ s pin f, State.changePin pin f (φ s) = φ (State.changePin pin f s)
  begun : ∀ s, { φ s with BUS_BEGUN := true } = φ { s with BUS_BEGUN := true }
  inTxn : ∀ s b, { φ s with IN_TXN := b } = φ { s with IN_TXN := b }
  answer : ∀ s l, { φ s with IC := l } = φ { s with IC := l }

/-- A sequence that does not notice a change of the state. -/
def Flow.Commutes {α : Type} (φ : State → State) (f : State → Flow α) : Prop := ∀ s, f (φ s) = (f s).mapState φ

variable {φ : State → State}

theorem Flow.Commutes.bind {α β : Type} {f : State → Flow α} {k : α → State → Flow β} (hf : Flow.Commutes φ f)
    (hk : ∀ a, Flow.Commutes φ (k a)) : Flow.Commutes φ (fun s => (f s).andThen k) := by
  intro s
  show (f (φ s)).andThen k = ((f s).andThen k).mapState φ
  rw [hf s]
  cases f s with
  | on a t => exact hk a t
  | hung t => rfl

theorem Flow.Commutes.pure {α : Type} (a : α) : Flow.Commutes φ (Flow.on a) := fun _ => rfl

theorem Blind.act (h : Blind φ) (e : Event) {f : State → State} (hf : ∀ s, f (φ s) = φ (f s)) :
    Flow.Commutes φ (act e f) := by
  intro s
  have : (φ s).stalled = s.stalled := by simp [State.stalled, h.stall]
  simp only [Machine.act, this]
  split
  · rfl
  · simp [Flow.mapState, h.perform, hf]

theorem Blind.gpioCfg (h : Blind φ) (pin : PinId) : Flow.Commutes φ (gpioCfg pin) :=
  h.act _ fun s => h.changePin s pin _

theorem Blind.gpioWr (h : Blind φ) (pin : PinId) (lvl : Level) : Flow.Commutes φ (gpioWr pin lvl) :=
  h.act _ fun s => h.changePin s pin _

theorem Blind.delayMs (h : Blind φ) (n : Nat) : Flow.Commutes φ (delayMs n) := h.act _ fun _ => rfl

theorem Blind.delayUs (h : Blind φ) (n : Nat) : Flow.Commutes φ (delayUs n) := h.act _ fun _ => rfl

theorem Blind.busBegin (h : Blind φ) : Flow.Commutes φ busBegin := h.act _ h.begun

theorem Blind.txnEnd (h : Blind φ) : Flow.Commutes φ txnEnd := h.act _ fun s => h.inTxn s false

theorem Blind.txnBegin (h : Blind φ) : Flow.Commutes φ txnBegin := by
  intro s
  rw [Machine.txnBegin, h.bus]
  exact h.act (.TB (busCfg s.cfg)) (f := fun t => { t with IN_TXN := true }) (fun t => h.inTxn t true) s

theorem Blind.csWr (h : Blind φ) (lvl : Level) : Flow.Commutes φ (fun s => Machine.gpioWr s.cfg.P_CS_PIN lvl s) := by
  intro s
  show Machine.gpioWr (φ s).cfg.P_CS_PIN lvl (φ s) = _
  rw [h.cs, h.gpioWr]

theorem Blind.rstWr (h : Blind φ) (lvl : Level) : Flow.Commutes φ (fun s => Machine.gpioWr s.cfg.P_RST_PIN lvl s) := by
  intro s
  show Machine.gpioWr (φ s).cfg.P_RST_PIN lvl (φ s) = _
  rw [h.rst, h.gpioWr]

theorem Blind.xfer (h : Blind φ) (b : Byte) : Flow.Commutes φ (xfer b) := by
  intro s
  have hi : icAnswer (φ s) b = icAnswer s b := by simp [icAnswer, h.ic, h.trace]
  have := h.act (.X b (icAnswer s b)) (f := fun t => { t with IC := t.IC.tail })
    (fun t => by simp only [h.ic t]; exact h.answer t _) s
  simp only [Machine.xfer, hi, this]
  cases Machine.act (.X b (icAnswer s b)) (fun t => { t with IC := t.IC.tail }) s <;> rfl

theorem Blind.xfers (h : Blind φ) (bytes : List Byte) : Flow.Commutes φ (xfers bytes) := by
  induction bytes with
  | nil => exact .pure []
  | cons b bs ih => exact (h.xfer b).bind fun r => ih.bind fun rs => .pure _

theorem Blind.txn (h : Blind φ) (bytes : List Byte) : Flow.Commutes φ (txn bytes) :=
  h.txnBegin.bind fun _ => (h.csWr .LOW).bind fun _ => (h.xfers bytes).bind fun _ => (h.csWr .HIGH).bind fun _ =>
    h.txnEnd.bind fun _ => .pure _

theorem Blind.sendf (h : Blind φ) (f : FrameBytes) : Flow.Commutes φ (sendf f) :=
  (h.txn _).bind fun _ => .pure _

theorem Blind.onSyncPin (h : Blind φ) {f : PinId → State → Flow Unit} (hf : ∀ pin, Flow.Commutes φ (f pin)) :
    Flow.Commutes φ (onSyncPin f) := by
  intro s
  simp only [Machine.onSyncPin, h.sync]
  cases s.cfg.P_SYNC_PIN with
  | none => rfl
  | some pin => exact hf pin s

theorem Blind.syncToggle (h : Blind φ) (pin : PinId) (n : Nat) : Flow.Commutes φ (syncToggle pin n) := by
  induction n with
  | zero => exact .pure ()
  | succ n ih =>
    refine (h.gpioWr pin .LOW).bind fun _ => (h.delayMs 2).bind fun _ => (h.gpioWr pin .HIGH).bind fun _ =>
      Flow.Commutes.bind (f := fun s => if n = 0 then Flow.on () s else Machine.delayMs 2 s) ?_ fun _ => ih
    by_cases hn : n = 0
    · simp only [hn, if_true]; exact .pure ()
    · simp only [hn, if_false]; exact h.delayMs 2

theorem Blind.bringup (h : Blind φ) : Flow.Commutes φ bringup := by
  have cfgCs : Flow.Commutes φ (fun s => Machine.gpioCfg s.cfg.P_CS_PIN s) := fun s => by
    show Machine.gpioCfg (φ s).cfg.P_CS_PIN (φ s) = _
    rw [h.cs, h.gpioCfg]
  have cfgRst : Flow.Commutes φ (fun s => Machine.gpioCfg s.cfg.P_RST_PIN s) := fun s => by
    show Machine.gpioCfg (φ s).cfg.P_RST_PIN (φ s) = _
    rw [h.rst, h.gpioCfg]
  exact cfgCs.bind fun _ => cfgRst.bind fun _ => (h.onSyncPin h.gpioCfg).bind fun _ =>
    (h.csWr .LOW).bind fun _ => (h.rstWr .LOW).bind fun _ => (h.delayMs 35).bind fun _ => (h.rstWr .HIGH).bind fun _ =>
    (h.delayMs 35).bind fun _ => (h.csWr .HIGH).bind fun _ => (h.delayMs 2).bind fun _ =>
    (h.onSyncPin fun pin => h.syncToggle pin _).bind fun _ => (h.delayMs 2).bind fun _ => (h.csWr .LOW).bind fun _ =>
    (h.delayMs 5).bind fun _ => (h.csWr .HIGH).bind fun _ => h.busBegin

theorem Blind.latchSeq (h : Blind φ) : Flow.Commutes φ latchSeq := by
  intro s
  simp only [Machine.latchSeq, h.sync, h.strategy]
  cases s.cfg.P_LATCH_STRATEGY with
  | SW_BITS f => exact h.sendf f s
  | PIN =>
    cases s.cfg.P_SYNC_PIN with
    | none => rfl
    | some pin => exact ((h.gpioWr pin .LOW).bind fun _ => (h.delayUs 4).bind fun _ => h.gpioWr pin .HIGH) s

/-- A read notices a change of the state in nothing but its write of `PB` (R123, R125). -/
theorem Blind.readPath (h : Blind φ) (hpb : ∀ s p, { φ s with PB := p } = φ { s with PB := p }) (n : Nat) (a : Byte) :
    Flow.Commutes φ (readPath n a) :=
  (h.sendf _).bind fun _ => (h.txn _).bind fun _ s => by
    show Flow.on _ _ = Flow.on _ _
    rw [hpb]

end Sys2Proof.Machine
end

