-- ==== Sys2Proof/Laws/Decode.lean ====
section
/-! SUPPORT. The small lemmas of the encoding: opcodes, lengths, and the bytes of multi-byte operands. -/

namespace Sys2Proof

/-- Every opcode is found by its own byte (R73). -/
@[simp] theorem opOf_code (o : Op) : opOf o.code = some o := by cases o <;> rfl

/-- A byte that names an opcode is that opcode's byte. -/
theorem code_of_opOf {b : Byte} {o : Op} (h : opOf b = some o) : o.code = b := by
  have := List.find?_some h
  simpa using this

/-- The bytes of a command are as many as its opcode's length says (R73). -/
theorem operandBytes_length (i : Instr) : i.operandBytes.length + 1 = i.op.length := by cases i <;> rfl

theorem le16_getLsbD (b0 b1 : Byte) (i : Nat) :
    (le16 b0 b1).getLsbD i = if i < 8 then b0.getLsbD i else b1.getLsbD (i - 8) := by
  show ((b1 ++ b0 : BitVec (8 + 8))).getLsbD i = _
  rw [BitVec.getLsbD_append]

theorem le24_getLsbD (b0 b1 b2 : Byte) (i : Nat) :
    (le24 b0 b1 b2).getLsbD i =
      if i < 8 then b0.getLsbD i else if i < 16 then b1.getLsbD (i - 8) else b2.getLsbD (i - 16) := by
  show ((b2 ++ b1 ++ b0 : BitVec (8 + 8 + 8))).getLsbD i = _
  rw [BitVec.getLsbD_append, BitVec.getLsbD_append]
  split
  · rfl
  · simp only [Nat.sub_sub, show i - 8 < 8 ↔ i < 16 from by omega]

theorem le32_getLsbD (b0 b1 b2 b3 : Byte) (i : Nat) :
    (le32 b0 b1 b2 b3).getLsbD i =
      if i < 8 then b0.getLsbD i else if i < 16 then b1.getLsbD (i - 8)
      else if i < 24 then b2.getLsbD (i - 16) else b3.getLsbD (i - 24) := by
  show ((b3 ++ b2 ++ b1 ++ b0 : BitVec (8 + 8 + 8 + 8))).getLsbD i = _
  rw [BitVec.getLsbD_append, BitVec.getLsbD_append, BitVec.getLsbD_append]
  split
  · rfl
  · simp only [Nat.sub_sub, show i - 8 < 8 ↔ i < 16 from by omega, show i - 16 < 8 ↔ i < 24 from by omega]

theorem byteOf_getLsbD {n : Nat} (v : BitVec n) (k i : Nat) :
    (byteOf v k).getLsbD i = (decide (i < 8) && v.getLsbD (8 * k + i)) := by
  simp [byteOf]

/-- The bytes of a 2-byte operand, put together again (R71). -/
@[simp] theorem le16_byteOf (v : BitVec 16) : le16 (byteOf v 0) (byteOf v 1) = v := by
  apply BitVec.eq_of_getLsbD_eq
  intro i hi
  rw [le16_getLsbD, byteOf_getLsbD, byteOf_getLsbD]
  split
  · simp [*]
  · rw [show 8 * 1 + (i - 8) = i by omega]; simp; omega

@[simp] theorem le24_byteOf (v : BitVec 24) : le24 (byteOf v 0) (byteOf v 1) (byteOf v 2) = v := by
  apply BitVec.eq_of_getLsbD_eq
  intro i hi
  rw [le24_getLsbD, byteOf_getLsbD, byteOf_getLsbD, byteOf_getLsbD]
  split
  · simp [*]
  split
  · rw [show 8 * 1 + (i - 8) = i by omega]; simp; omega
  · rw [show 8 * 2 + (i - 16) = i by omega]; simp; omega

@[simp] theorem le32_byteOf (v : BitVec 32) : le32 (byteOf v 0) (byteOf v 1) (byteOf v 2) (byteOf v 3) = v := by
  apply BitVec.eq_of_getLsbD_eq
  intro i hi
  rw [le32_getLsbD, byteOf_getLsbD, byteOf_getLsbD, byteOf_getLsbD, byteOf_getLsbD]
  split
  · simp [*]
  split
  · rw [show 8 * 1 + (i - 8) = i by omega]; simp; omega
  split
  · rw [show 8 * 2 + (i - 16) = i by omega]; simp; omega
  · rw [show 8 * 3 + (i - 24) = i by omega]; simp; omega

/-- The bytes of an operand made of bytes are those bytes (R71). -/
@[simp] theorem byteOf_le16 (b0 b1 : Byte) : byteOf (le16 b0 b1) 0 = b0 ∧ byteOf (le16 b0 b1) 1 = b1 := by
  constructor <;>
  · apply BitVec.eq_of_getLsbD_eq
    intro i hi
    rw [byteOf_getLsbD, le16_getLsbD]
    simp [hi]

@[simp] theorem byteOf_le24 (b0 b1 b2 : Byte) :
    byteOf (le24 b0 b1 b2) 0 = b0 ∧ byteOf (le24 b0 b1 b2) 1 = b1 ∧ byteOf (le24 b0 b1 b2) 2 = b2 := by
  refine ⟨?_, ?_, ?_⟩ <;>
  · apply BitVec.eq_of_getLsbD_eq
    intro i hi
    rw [byteOf_getLsbD, le24_getLsbD]
    simp [hi, show 8 + i < 16 from by omega, show ¬16 + i < 8 from by omega]

@[simp] theorem byteOf_le32 (b0 b1 b2 b3 : Byte) :
    byteOf (le32 b0 b1 b2 b3) 0 = b0 ∧ byteOf (le32 b0 b1 b2 b3) 1 = b1 ∧
    byteOf (le32 b0 b1 b2 b3) 2 = b2 ∧ byteOf (le32 b0 b1 b2 b3) 3 = b3 := by
  refine ⟨?_, ?_, ?_, ?_⟩ <;>
  · apply BitVec.eq_of_getLsbD_eq
    intro i hi
    rw [byteOf_getLsbD, le32_getLsbD]
    simp [hi, show 8 + i < 16 from by omega, show 16 + i < 24 from by omega, show ¬16 + i < 8 from by omega,
      show ¬24 + i < 8 from by omega, show ¬24 + i < 16 from by omega]

/-- The operand bytes of a command have the layout of its opcode (R73, R74). -/
theorem operands_operandBytes (i : Instr) : operands i.op i.operandBytes = some i := by
  cases i <;> simp [Instr.op, Instr.operandBytes, operands, fmtN, fmtB, fmtBB, fmtW4, fmtCR16, fmtCR24, fmtCR32, fmtFF]

/-! What each format accepts. -/

theorem fmtN_eq_some {j i : Instr} {l : List Byte} (h : fmtN j l = some i) : l = [] ∧ i = j := by
  cases l <;> simp_all [fmtN]

theorem fmtB_eq_some {f : Byte → Instr} {i : Instr} {l : List Byte} (h : fmtB f l = some i) : ∃ a, l = [a] ∧ i = f a := by
  unfold fmtB at h; split at h <;> simp_all

theorem fmtBB_eq_some {f : Byte → Byte → Instr} {i : Instr} {l : List Byte} (h : fmtBB f l = some i) :
    ∃ a b, l = [a, b] ∧ i = f a b := by
  unfold fmtBB at h; split at h <;> simp_all

theorem fmtW4_eq_some {f : Byte → Byte → Byte → Byte → Instr} {i : Instr} {l : List Byte} (h : fmtW4 f l = some i) :
    ∃ a b c d, l = [a, b, c, d] ∧ i = f a b c d := by
  unfold fmtW4 at h; split at h <;> simp_all

theorem fmtCR16_eq_some {f : Byte → BitVec 16 → Instr} {i : Instr} {l : List Byte} (h : fmtCR16 f l = some i) :
    ∃ ch a b, l = [ch, a, b] ∧ i = f ch (le16 a b) := by
  unfold fmtCR16 at h; split at h <;> simp_all

theorem fmtCR24_eq_some {f : Byte → BitVec 24 → Instr} {i : Instr} {l : List Byte} (h : fmtCR24 f l = some i) :
    ∃ ch a b c, l = [ch, a, b, c] ∧ i = f ch (le24 a b c) := by
  unfold fmtCR24 at h; split at h <;> simp_all

theorem fmtCR32_eq_some {f : Byte → BitVec 32 → Instr} {i : Instr} {l : List Byte} (h : fmtCR32 f l = some i) :
    ∃ ch a b c d, l = [ch, a, b, c, d] ∧ i = f ch (le32 a b c d) := by
  unfold fmtCR32 at h; split at h <;> simp_all

theorem fmtFF_eq_some {f : BitVec 32 → BitVec 32 → Instr} {i : Instr} {l : List Byte} (h : fmtFF f l = some i) :
    ∃ a b c d a' b' c' d', l = [a, b, c, d, a', b', c', d'] ∧ i = f (le32 a b c d) (le32 a' b' c' d') := by
  unfold fmtFF at h
  split at h
  · exact ⟨_, _, _, _, _, _, _, _, rfl, (Option.some.inj h).symm⟩
  · simp at h

/-- What a command's operand bytes decode to has that opcode and those bytes: no bit of an operand is lost (R74). -/
theorem operands_eq_some {o : Op} {l : List Byte} {i : Instr} (h : operands o l = some i) :
    i.op = o ∧ i.operandBytes = l := by
  cases o <;> simp only [operands] at h
  all_goals first
    | (obtain ⟨rfl, rfl⟩ := fmtN_eq_some h; exact ⟨rfl, rfl⟩)
    | (obtain ⟨a, rfl, rfl⟩ := fmtB_eq_some h; exact ⟨rfl, rfl⟩)
    | (obtain ⟨a, b, rfl, rfl⟩ := fmtBB_eq_some h; exact ⟨rfl, rfl⟩)
    | (obtain ⟨ch, a, b, c, rfl, rfl⟩ := fmtCR24_eq_some h; exact ⟨rfl, by simp [Instr.operandBytes]⟩)
    | (obtain ⟨a, b, c, d, rfl, rfl⟩ := fmtW4_eq_some h; exact ⟨rfl, by simp [Instr.operandBytes]⟩)
    | (obtain ⟨ch, a, b, rfl, rfl⟩ := fmtCR16_eq_some h; exact ⟨rfl, by simp [Instr.operandBytes]⟩)
    | (obtain ⟨ch, a, b, c, d, rfl, rfl⟩ := fmtCR32_eq_some h; exact ⟨rfl, by simp [Instr.operandBytes]⟩)
    | (obtain ⟨a, b, c, d, a', b', c', d', rfl, rfl⟩ := fmtFF_eq_some h; exact ⟨rfl, by simp [Instr.operandBytes]⟩)

/-- A string of the length of its opcode has operands (R84). -/
theorem operands_isSome {o : Op} {l : List Byte} (h : l.length + 1 = o.length) : ∃ i, operands o l = some i := by
  cases o <;> simp only [Op.length] at h
  all_goals (match l, h with
    | [], h => first | exact ⟨_, rfl⟩ | simp at h
    | [_], h => first | exact ⟨_, rfl⟩ | simp at h
    | [_, _], h => first | exact ⟨_, rfl⟩ | simp at h
    | [_, _, _], h => first | exact ⟨_, rfl⟩ | simp at h
    | [_, _, _, _], h => first | exact ⟨_, rfl⟩ | simp at h
    | [_, _, _, _, _], h => first | exact ⟨_, rfl⟩ | simp at h
    | [_, _, _, _, _, _, _, _], h => first | exact ⟨_, rfl⟩ | simp at h
    | [_, _, _, _, _, _], h => simp at h
    | [_, _, _, _, _, _, _], h => simp at h
    | _ :: _ :: _ :: _ :: _ :: _ :: _ :: _ :: _ :: _, h => simp at h)

end Sys2Proof
end

