-- ==== Sys2Proof/Laws/Ops.lean ====
section
/-! SUPPORT. The specification of sequences of interface actions. A sequence performs events: all of one of its complete event
lists, or, when the platform stalls, a proper beginning of one (`Flow.Does`). What the events do to the state is one function
of the events alone (`State.didAll`, `didAll_eq`). -/

namespace Sys2Proof.Machine

/-! ## One event -/

/-- The state after the platform has completed the action of an event. -/
def State.did (s : State) (e : Event) : State :=
  { s.afterEvents [e] with SEQ := s.SEQ.map (· + 1), STALL := s.STALL.map (· - 1) }

/-- `GpioCfg` changes `PIN` as R30's reading of its event says. -/
theorem update_configure (c : Config) (pin : PinId) (p : Pins) :
    p.update c pin PinState.configure = replayPins c p [.CFG pin] := by
  rcases c with ⟨rst, cs, sync⟩
  cases sync <;>
    simp only [Pins.update, replayPins, replayPin, pinEvent, List.foldl, eq_comm (b := pin), Option.some.injEq, reduceCtorEq,
      if_false] <;>
    rfl

/-- `GpioWr` changes `PIN` as R30's reading of its event says. -/
theorem update_write (c : Config) (pin : PinId) (lvl : Level) (p : Pins) :
    p.update c pin (fun _ => .out (some lvl)) = replayPins c p [.WR pin lvl] := by
  rcases c with ⟨rst, cs, sync⟩
  cases sync <;> simp [Pins.update, replayPins, replayPin, pinEvent, eq_comm (b := pin)]

theorem gpioCfg_eq (pin : PinId) (s : State) :
    gpioCfg pin s = if s.stalled then .hung s else .on () (s.did (.CFG pin)) := by
  simp [gpioCfg, act, State.did, State.afterEvents, State.changePin, State.perform, update_configure, replayInTxn, begins,
    received]

theorem gpioWr_eq (pin : PinId) (lvl : Level) (s : State) :
    gpioWr pin lvl s = if s.stalled then .hung s else .on () (s.did (.WR pin lvl)) := by
  simp [gpioWr, act, State.did, State.afterEvents, State.changePin, State.perform, update_write, replayInTxn, begins,
    received]

/-- An event that touches no pin leaves `PIN` alone. -/
theorem replayPins_of_pinEvent {c : Config} {p : Pins} {e : Event} (h : ∀ q x, pinEvent q x e = x) :
    replayPins c p [e] = p := by
  cases p; cases hs : c.P_SYNC_PIN <;> simp [replayPins, replayPin, h, hs]

theorem delayMs_eq (n : Nat) (s : State) :
    delayMs n s = if s.stalled then .hung s else .on () (s.did (.DMS n)) := by
  simp [delayMs, act, State.did, State.afterEvents, State.perform, replayInTxn, begins, received,
    replayPins_of_pinEvent (e := .DMS n) (fun _ _ => rfl)]

theorem delayUs_eq (n : Nat) (s : State) :
    delayUs n s = if s.stalled then .hung s else .on () (s.did (.DUS n)) := by
  simp [delayUs, act, State.did, State.afterEvents, State.perform, replayInTxn, begins, received,
    replayPins_of_pinEvent (e := .DUS n) (fun _ _ => rfl)]

theorem busBegin_eq (s : State) :
    busBegin s = if s.stalled then .hung s else .on () (s.did .BEGIN) := by
  simp [busBegin, act, State.did, State.afterEvents, State.perform, replayInTxn, begins, received,
    replayPins_of_pinEvent (e := .BEGIN) (fun _ _ => rfl)]

theorem txnBegin_eq (s : State) :
    txnBegin s = if s.stalled then .hung s else .on () (s.did (.TB (busCfg s.cfg))) := by
  simp [txnBegin, act, State.did, State.afterEvents, State.perform, replayInTxn, begins, received,
    replayPins_of_pinEvent (e := .TB (busCfg s.cfg)) (fun _ _ => rfl)]

theorem txnEnd_eq (s : State) :
    txnEnd s = if s.stalled then .hung s else .on () (s.did .TE) := by
  simp [txnEnd, act, State.did, State.afterEvents, State.perform, replayInTxn, begins, received,
    replayPins_of_pinEvent (e := .TE) (fun _ _ => rfl)]

theorem xfer_eq (b : Byte) (s : State) :
    xfer b s = if s.stalled then .hung s else .on (icAnswer s b) (s.did (.X b (icAnswer s b))) := by
  by_cases h : s.stalled <;>
    simp [xfer, act, h, Flow.andThen, State.did, State.afterEvents, State.perform, replayInTxn, begins, received,
      replayPins_of_pinEvent (e := .X b (icAnswer s b)) (fun _ _ => rfl)]

/-! ## Lists of events -/

/-- The state after the platform has completed the actions of a list of events. -/
def State.didAll (s : State) (evs : List Event) : State :=
  { s.afterEvents evs with
    SEQ := s.SEQ.map (· + evs.length)
    STALL := s.STALL.map (· - evs.length) }

theorem received_append (a b : List Event) : received (a ++ b) = received a ++ received b := by
  induction a with
  | nil => rfl
  | cons e a ih => cases e <;> simp [received, ih]

theorem replayPins_append (c : Config) (p : Pins) (a b : List Event) :
    replayPins c p (a ++ b) = replayPins c (replayPins c p a) b := by
  cases hs : c.P_SYNC_PIN <;> simp [replayPins, replayPin, hs]

theorem replayInTxn_append (x : Bool) (a b : List Event) :
    replayInTxn x (a ++ b) = replayInTxn (replayInTxn x a) b := by
  simp [replayInTxn]

theorem begins_append (a b : List Event) : begins (a ++ b) = (begins a || begins b) := by
  simp [begins]

@[simp] theorem replayPins_nil (c : Config) (p : Pins) : replayPins c p [] = p := by
  cases p; cases hs : c.P_SYNC_PIN <;> simp [replayPins, replayPin, hs]

/-- What happens in two lists of events one after the other. -/
theorem State.afterEvents_append (s : State) (a b : List Event) :
    s.afterEvents (a ++ b) = (s.afterEvents a).afterEvents b := by
  simp [State.afterEvents, received_append, replayPins_append, replayInTxn_append, begins_append, List.append_assoc,
    Bool.or_assoc, List.drop_drop]

@[simp] theorem State.afterEvents_nil (s : State) : s.afterEvents [] = s := by
  simp [State.afterEvents, replayInTxn, begins, received]

@[simp] theorem State.didAll_nil (s : State) : s.didAll [] = s := by
  simp [State.didAll]

theorem State.didAll_append (s : State) (a b : List Event) : s.didAll (a ++ b) = (s.didAll a).didAll b := by
  simp only [State.didAll, State.afterEvents_append, List.length_append]
  cases s.SEQ <;> cases s.STALL <;> simp [State.afterEvents, Nat.add_assoc, Nat.sub_sub]

theorem State.did_eq (s : State) (e : Event) : s.did e = s.didAll [e] := rfl

@[simp] theorem State.didAll_cfg (s : State) (evs : List Event) : (s.didAll evs).cfg = s.cfg := rfl
@[simp] theorem State.didAll_BUSY (s : State) (evs : List Event) : (s.didAll evs).BUSY = s.BUSY := rfl
@[simp] theorem State.didAll_READY (s : State) (evs : List Event) : (s.didAll evs).READY = s.READY := rfl
@[simp] theorem State.didAll_AUTO_LATCH (s : State) (evs : List Event) : (s.didAll evs).AUTO_LATCH = s.AUTO_LATCH := rfl
@[simp] theorem State.didAll_CRC_EN (s : State) (evs : List Event) : (s.didAll evs).CRC_EN = s.CRC_EN := rfl
@[simp] theorem State.didAll_CAL_V (s : State) (evs : List Event) : (s.didAll evs).CAL_V = s.CAL_V := rfl
@[simp] theorem State.didAll_CAL_I (s : State) (evs : List Event) : (s.didAll evs).CAL_I = s.CAL_I := rfl
@[simp] theorem State.didAll_STATUS (s : State) (evs : List Event) : (s.didAll evs).STATUS = s.STATUS := rfl
@[simp] theorem State.didAll_RVAL0 (s : State) (evs : List Event) : (s.didAll evs).RVAL0 = s.RVAL0 := rfl
@[simp] theorem State.didAll_RVAL1 (s : State) (evs : List Event) : (s.didAll evs).RVAL1 = s.RVAL1 := rfl
@[simp] theorem State.didAll_RINT (s : State) (evs : List Event) : (s.didAll evs).RINT = s.RINT := rfl
@[simp] theorem State.didAll_PB (s : State) (evs : List Event) : (s.didAll evs).PB = s.PB := rfl
@[simp] theorem State.didAll_PIN (s : State) (evs : List Event) : (s.didAll evs).PIN = replayPins s.cfg s.PIN evs := rfl
@[simp] theorem State.didAll_BUS_BEGUN (s : State) (evs : List Event) : (s.didAll evs).BUS_BEGUN = (s.BUS_BEGUN || begins evs) := rfl
@[simp] theorem State.didAll_IN_TXN (s : State) (evs : List Event) : (s.didAll evs).IN_TXN = replayInTxn s.IN_TXN evs := rfl
@[simp] theorem State.didAll_TRACE (s : State) (evs : List Event) : (s.didAll evs).TRACE = s.TRACE ++ evs := rfl
@[simp] theorem State.didAll_SEQ (s : State) (evs : List Event) : (s.didAll evs).SEQ = s.SEQ.map (· + evs.length) := rfl
@[simp] theorem State.didAll_PORT (s : State) (evs : List Event) : (s.didAll evs).PORT = s.PORT := rfl
@[simp] theorem State.didAll_IC (s : State) (evs : List Event) : (s.didAll evs).IC = s.IC.drop (received evs).length := rfl
@[simp] theorem State.didAll_STALL (s : State) (evs : List Event) : (s.didAll evs).STALL = s.STALL.map (· - evs.length) := rfl

/-! ## Sequences -/

/-- The received bytes of a list of events are the answers the IC gives, one after the other, from a state (R128). -/
def Answered (s : State) : List Event → Prop
  | [] => True
  | e :: evs => (∀ b r, e = .X b r → r = icAnswer s b) ∧ Answered (s.did e) evs

theorem Answered.append {s : State} {a b : List Event} (ha : Answered s a) (hb : Answered (s.didAll a) b) :
    Answered s (a ++ b) := by
  induction a generalizing s with
  | nil => simpa using hb
  | cons e a ih =>
    refine ⟨ha.1, ih ha.2 ?_⟩
    have : s.didAll (e :: a) = (s.did e).didAll a := by
      rw [State.did_eq, ← State.didAll_append]; rfl
    rwa [this] at hb

/-- A state comes from another by the platform completing the actions of a list of events, the IC answering. -/
structure Performs (s : State) (evs : List Event) (t : State) : Prop where
  state : t = s.didAll evs
  answered : Answered s evs
  budget : ∀ k, s.STALL = some k → evs.length ≤ k

theorem Performs.nil (s : State) : Performs s [] s := ⟨by simp, trivial, by simp⟩

theorem Performs.trans {s t u : State} {a b : List Event} (h₁ : Performs s a t) (h₂ : Performs t b u) :
    Performs s (a ++ b) u := by
  obtain ⟨rfl, ha, hk⟩ := h₁
  obtain ⟨rfl, hb, hk'⟩ := h₂
  refine ⟨(State.didAll_append _ _ _).symm, ha.append hb, fun k h => ?_⟩
  have h1 := hk k h
  have h2 := hk' (k - a.length) (by simp [State.didAll, h])
  simp only [List.length_append]
  omega

/-- What a sequence of actions can do: `full a evs` says that `evs` is a complete list of its events and `a` its value. Either
it completes and has performed such a list, or it hangs after a proper beginning of one, the platform completing no more. -/
def Flow.Does {α : Type} (f : Flow α) (s : State) (full : α → List Event → Prop) : Prop :=
  match f with
  | .on a t => ∃ evs, full a evs ∧ Performs s evs t
  | .hung t => ∃ evs rest a, full a (evs ++ rest) ∧ rest ≠ [] ∧ Performs s evs t ∧ t.STALL = some 0

theorem Flow.Does.pure {α : Type} (a : α) (s : State) (full : α → List Event → Prop) (h : full a []) :
    (Flow.on a s).Does s full := ⟨[], h, Performs.nil s⟩

theorem Flow.Does.mono {α : Type} {f : Flow α} {s : State} {p q : α → List Event → Prop} (h : f.Does s p)
    (hpq : ∀ a evs, p a evs → q a evs) : f.Does s q := by
  cases f with
  | on a t => exact let ⟨evs, hp, ht⟩ := h; ⟨evs, hpq _ _ hp, ht⟩
  | hung t => exact let ⟨evs, rest, a, hp, h⟩ := h; ⟨evs, rest, a, hpq _ _ hp, h⟩

/-- Some complete event list exists, whatever the platform does. -/
theorem Flow.Does.exists_full {α : Type} {f : Flow α} {s : State} {full : α → List Event → Prop} (h : f.Does s full) :
    ∃ a evs, full a evs := by
  cases f with
  | on a t => exact let ⟨evs, hp, _⟩ := h; ⟨a, evs, hp⟩
  | hung t => exact let ⟨evs, rest, a, hp, _⟩ := h; ⟨a, evs ++ rest, hp⟩

/-- Two sequences one after the other: the second's events are judged with those of the first before them. -/
theorem Flow.Does.bind {α β : Type} {f : Flow α} {k : α → State → Flow β} {s : State} {p : α → List Event → Prop}
    {full : β → List Event → Prop} (hf : f.Does s p)
    (hk : ∀ a e₁ t, t.cfg = s.cfg → p a e₁ → (k a t).Does t (fun b e₂ => full b (e₁ ++ e₂))) :
    (f.andThen k).Does s full := by
  cases f with
  | hung t =>
    obtain ⟨evs, rest, a, hp, hr, ht, h0⟩ := hf
    obtain ⟨b, e, hb⟩ := (hk a _ s rfl hp).exists_full
    exact ⟨evs, rest ++ e, b, by simpa using hb, by simp [hr], ht, h0⟩
  | on a t =>
    obtain ⟨e₁, hp, ht⟩ := hf
    have h₂ := hk a e₁ t (by rw [ht.state]; rfl) hp
    show Flow.Does (k a t) s _
    cases hka : k a t with
    | on b u =>
      rw [hka] at h₂
      obtain ⟨e₂, hq₂, hu⟩ := h₂
      exact ⟨e₁ ++ e₂, hq₂, ht.trans hu⟩
    | hung u =>
      rw [hka] at h₂
      obtain ⟨e₂, rest, b, hq₂, hr, hu, h0⟩ := h₂
      exact ⟨e₁ ++ e₂, rest, b, by simpa using hq₂, hr, ht.trans hu, h0⟩

/-- One action that is not a transfer. -/
theorem Flow.Does.one {e : Event} {s : State} (hx : ∀ b r, e ≠ .X b r) :
    (if s.stalled then Flow.hung s else Flow.on () (s.did e)).Does s (fun _ evs => evs = [e]) := by
  by_cases h : s.stalled = true
  · have h0 : s.STALL = some 0 := by simpa [State.stalled] using h
    simp only [h, if_true]
    exact ⟨[], [e], (), by simp, by simp, Performs.nil s, h0⟩
  · simp only [h]
    refine ⟨[e], rfl, ⟨rfl, ⟨fun b r he => absurd he (hx b r), trivial⟩, fun k hk => ?_⟩⟩
    have : k ≠ 0 := by rintro rfl; simp [State.stalled, hk] at h
    simp; omega

theorem gpioCfg_does (pin : PinId) (s : State) : (gpioCfg pin s).Does s (fun _ evs => evs = [.CFG pin]) := by
  rw [gpioCfg_eq]; exact .one (by simp)

theorem gpioWr_does (pin : PinId) (lvl : Level) (s : State) :
    (gpioWr pin lvl s).Does s (fun _ evs => evs = [.WR pin lvl]) := by
  rw [gpioWr_eq]; exact .one (by simp)

theorem delayMs_does (n : Nat) (s : State) : (delayMs n s).Does s (fun _ evs => evs = [.DMS n]) := by
  rw [delayMs_eq]; exact .one (by simp)

theorem delayUs_does (n : Nat) (s : State) : (delayUs n s).Does s (fun _ evs => evs = [.DUS n]) := by
  rw [delayUs_eq]; exact .one (by simp)

theorem busBegin_does (s : State) : (busBegin s).Does s (fun _ evs => evs = [.BEGIN]) := by
  rw [busBegin_eq]; exact .one (by simp)

theorem txnBegin_does (s : State) : (txnBegin s).Does s (fun _ evs => evs = [.TB (busCfg s.cfg)]) := by
  rw [txnBegin_eq]; exact .one (by simp)

theorem txnEnd_does (s : State) : (txnEnd s).Does s (fun _ evs => evs = [.TE]) := by
  rw [txnEnd_eq]; exact .one (by simp)

theorem xfer_does (b : Byte) (s : State) : (xfer b s).Does s (fun r evs => evs = [.X b r]) := by
  rw [xfer_eq]
  by_cases h : s.stalled = true
  · have h0 : s.STALL = some 0 := by simpa [State.stalled] using h
    simp only [h, if_true]
    exact ⟨[], [.X b 0], 0, by simp, by simp, Performs.nil s, h0⟩
  · simp only [h]
    refine ⟨[.X b (icAnswer s b)], rfl, ⟨rfl, ⟨fun b' r he => ?_, trivial⟩, fun k hk => ?_⟩⟩
    · cases he; rfl
    · have : k ≠ 0 := by rintro rfl; simp [State.stalled, hk] at h
      simp; omega

theorem xfers_does (bytes : List Byte) (s : State) :
    (xfers bytes s).Does s (fun r evs => r.length = bytes.length ∧ evs = List.zipWith Event.X bytes r) := by
  induction bytes generalizing s with
  | nil => exact .pure _ _ _ (by simp)
  | cons b bs ih =>
    refine (xfer_does b s).bind fun r e t _ he => (ih t).bind fun rs e' u _ he' => .pure _ _ _ ?_
    subst he; obtain ⟨hl, rfl⟩ := he'
    simp [hl]

/-! ## A platform that completes every action -/

/-- With a platform that does its duty (R277) a sequence completes, and its events took the state where `afterEvents` says. -/
theorem Flow.Does.live {α : Type} {f : Flow α} {s : State} {full : α → List Event → Prop} (h : f.Does s full)
    (hs : s.STALL = none) :
    ∃ a evs, full a evs ∧ Answered s evs ∧
      f = .on a { s.afterEvents evs with SEQ := s.SEQ.map (· + evs.length) } := by
  cases f with
  | hung t =>
    obtain ⟨evs, rest, a, _, _, ht, h0⟩ := h
    have : t.STALL = none := by rw [ht.state]; simp [State.didAll, hs]
    simp [this] at h0
  | on a t =>
    obtain ⟨evs, hf, ht⟩ := h
    refine ⟨a, evs, hf, ht.answered, ?_⟩
    rw [ht.state]
    cases s
    simp_all [State.didAll, State.afterEvents]

/-- The scripted answers come first and in order (R128). -/
theorem Answered.answeredBy {s : State} {evs : List Event} (h : Answered s evs) : AnsweredBy s.IC (received evs) := by
  induction evs generalizing s with
  | nil => simp [AnsweredBy, received]
  | cons e evs ih =>
    have := ih h.2
    cases e with
    | X b r =>
      have hr := h.1 b r rfl
      cases hic : s.IC with
      | nil => simp [AnsweredBy]
      | cons x xs =>
        simp only [icAnswer, hic] at hr
        subst hr
        have hx : (s.did (.X b r)).IC = xs := by simp [State.did, received, hic]
        rw [hx] at this
        simpa [AnsweredBy, received] using this
    | _ => simpa [State.did, received, AnsweredBy] using this

/-! ## The end of a command -/

theorem ok_eq (s : State) : ok s = .next { s with STATUS := some .OK, BUSY := false, SEQ := none } := rfl

theorem raise_eq (c : Status) (s : State) : raise c s = .next { s with STATUS := some c, BUSY := false, SEQ := none } := rfl

theorem raiseSentinel_eq (s : State) :
    raiseSentinel s = .next { s with
      RVAL0 := some (sentinel s.cfg.P_NUMERICS), STATUS := some .INVALID_CHANNEL, BUSY := false, SEQ := none } := rfl

theorem finish_on (a : Unit) (s : State) : (Flow.on a s).finish = ok s := rfl

theorem finish_hung (s : State) : (Flow.hung s).finish = .next s := rfl

end Sys2Proof.Machine
end

