-- ==== Sys2Proof/Laws/Sequences.lean ====
section
/-! SUPPORT. What each sub-sequence does (R101, R102, R120, R121, R123, R125, R140), and what each command that drives the bus or
the pins does: it raises a status, or it completes after one of its complete event lists, or it hangs inside one. A proof about
such a command cites its lemma here and unfolds no operation. -/

namespace Sys2Proof.Machine

/-! ## Sub-sequences -/

theorem txn_does (bytes : List Byte) (s : State) :
    (txn bytes s).Does s (fun r evs => r.length = bytes.length ∧ evs = txnEvents s.cfg bytes r) := by
  refine (txnBegin_does s).bind fun _ e₁ t ht h₁ => (gpioWr_does _ .LOW t).bind fun _ e₂ u hu h₂ =>
    (xfers_does bytes u).bind fun r e₃ v hv h₃ => (gpioWr_does _ .HIGH v).bind fun _ e₄ w hw h₄ =>
    (txnEnd_does w).bind fun _ e₅ x _ h₅ => .pure _ _ _ ?_
  subst h₁ h₂ h₄ h₅
  obtain ⟨hl, rfl⟩ := h₃
  exact ⟨hl, by simp [txnEvents, busCfg, ht, hu, hv]⟩

theorem sendf_does (f : FrameBytes) (s : State) :
    (sendf f s).Does s (fun _ evs => ∃ r : List Byte, r.length = 4 ∧ evs = txnEvents s.cfg [f.ra, f.wa, f.dl, f.dh] r) := by
  refine (txn_does _ s).bind fun r e t _ h => .pure _ _ _ ?_
  exact ⟨r, by simpa using h.1, by simpa using h.2⟩

theorem onSyncPin_does {f : PinId → State → Flow Unit} {evs : PinId → List Event} (s : State)
    (h : ∀ pin s, (f pin s).Does s (fun _ e => e = evs pin)) :
    (onSyncPin f s).Does s (fun _ e => e = match s.cfg.P_SYNC_PIN with | none => [] | some pin => evs pin) := by
  unfold onSyncPin
  cases hs : s.cfg.P_SYNC_PIN with
  | none => exact .pure _ _ _ rfl
  | some pin => exact h pin s

theorem syncToggle_does (pin : PinId) (s : State) :
    (syncToggle pin P_SYNC_TOGGLES s).Does s (fun _ evs => evs = syncToggleEvents pin) := by
  have one : ∀ (n : Nat) (s : State) (later : List Event),
      (∀ t, (syncToggle pin n t).Does t (fun _ evs => evs = later)) →
      (syncToggle pin (n + 1) s).Does s
        (fun _ evs => evs = [.WR pin .LOW, .DMS 2, .WR pin .HIGH] ++ (if n = 0 then [] else [.DMS 2]) ++ later) := by
    intro n s later h
    refine (gpioWr_does pin .LOW s).bind fun _ e₁ t _ h₁ => (delayMs_does 2 t).bind fun _ e₂ u _ h₂ =>
      (gpioWr_does pin .HIGH u).bind fun _ e₃ v _ h₃ =>
      Flow.Does.bind (p := fun _ e => e = if n = 0 then [] else [.DMS 2]) ?_ fun _ e₄ w _ h₄ => (h w).mono ?_
    · by_cases hn : n = 0
      · simp only [hn, if_true]; exact .pure _ _ _ rfl
      · simp only [hn, if_false]; exact delayMs_does 2 v
    · rintro _ evs rfl
      subst h₁ h₂ h₃ h₄
      simp
  exact one 2 s _ fun t => one 1 t _ fun t => one 0 t _ fun t => .pure _ _ _ rfl

theorem bringup_does (s : State) : (bringup s).Does s (fun _ evs => evs = bringupEvents s.cfg) := by
  refine (gpioCfg_does _ s).bind fun _ e₁ s₁ c₁ h₁ => (gpioCfg_does _ s₁).bind fun _ e₂ s₂ c₂ h₂ =>
    (onSyncPin_does (evs := fun p => [.CFG p]) s₂ gpioCfg_does).bind fun _ e₃ s₃ c₃ h₃ =>
    (gpioWr_does _ _ s₃).bind fun _ e₄ s₄ c₄ h₄ => (gpioWr_does _ _ s₄).bind fun _ e₅ s₅ c₅ h₅ =>
    (delayMs_does _ s₅).bind fun _ e₆ s₆ c₆ h₆ => (gpioWr_does _ _ s₆).bind fun _ e₇ s₇ c₇ h₇ =>
    (delayMs_does _ s₇).bind fun _ e₈ s₈ c₈ h₈ => (gpioWr_does _ _ s₈).bind fun _ e₉ s₉ c₉ h₉ =>
    (delayMs_does _ s₉).bind fun _ e₁₀ s₁₀ c₁₀ h₁₀ => (onSyncPin_does s₁₀ syncToggle_does).bind fun _ e₁₁ s₁₁ c₁₁ h₁₁ =>
    (delayMs_does _ s₁₁).bind fun _ e₁₂ s₁₂ c₁₂ h₁₂ => (gpioWr_does _ _ s₁₂).bind fun _ e₁₃ s₁₃ c₁₃ h₁₃ =>
    (delayMs_does _ s₁₃).bind fun _ e₁₄ s₁₄ c₁₄ h₁₄ => (gpioWr_does _ _ s₁₄).bind fun _ e₁₅ s₁₅ c₁₅ h₁₅ =>
    (busBegin_does s₁₅).mono ?_
  rintro _ evs rfl
  subst h₁ h₂ h₃ h₄ h₅ h₆ h₇ h₈ h₉ h₁₀ h₁₁ h₁₂ h₁₃ h₁₄ h₁₅
  simp only [c₁, c₂, c₃, c₄, c₅, c₆, c₇, c₈, c₉, c₁₀, c₁₁, c₁₂, c₁₃, c₁₄]
  simp only [bringupEvents]
  cases s.cfg.P_SYNC_PIN <;> simp

theorem latchSeq_does (s : State) (h : latchError s.cfg = none) :
    (latchSeq s).Does s (fun _ evs => IsLatch s.cfg evs) := by
  unfold latchSeq
  cases hl : s.cfg.P_LATCH_STRATEGY with
  | SW_BITS f =>
    refine (sendf_does f s).mono fun _ evs he => ?_
    simpa [IsLatch, hl] using he
  | PIN =>
    cases hp : s.cfg.P_SYNC_PIN with
    | none => simp [latchError, hl, hp] at h
    | some pin =>
      refine (gpioWr_does pin .LOW s).bind fun _ e₁ t _ h₁ => (delayUs_does 4 t).bind fun _ e₂ u _ h₂ =>
        (gpioWr_does pin .HIGH u).mono ?_
      rintro _ evs rfl
      subst h₁ h₂
      simp [IsLatch, hl, hp]

/-! ## Sequences that end in a write of results -/

/-- A sequence of actions after which results are written: completed, its state is `upd i` of a state reached by one of the
complete event lists of `i`; hung, nothing has been written. -/
def Flow.Ends {α ι : Type} (f : Flow α) (s : State) (full : ι → List Event → Prop) (upd : ι → State → State) : Prop :=
  match f with
  | .on _ t => ∃ i evs u, full i evs ∧ Performs s evs u ∧ t = upd i u
  | .hung t => ∃ i evs rest, full i (evs ++ rest) ∧ rest ≠ [] ∧ Performs s evs t ∧ t.STALL = some 0

theorem Flow.Does.write {α β ι : Type} {f : Flow α} {k : α → State → Flow β} {s : State} {p : α → List Event → Prop}
    {full : ι → List Event → Prop} {upd : ι → State → State} (hf : f.Does s p)
    (hk : ∀ a evs t, p a evs → t.cfg = s.cfg → ∃ b i, k a t = .on b (upd i t) ∧ full i evs) :
    (f.andThen k).Ends s full upd := by
  cases f with
  | hung t =>
    obtain ⟨evs, rest, a, hp, hr, ht, h0⟩ := hf
    obtain ⟨b, i, _, hi⟩ := hk a _ s hp rfl
    exact ⟨i, evs, rest, hi, hr, ht, h0⟩
  | on a t =>
    obtain ⟨evs, hp, ht⟩ := hf
    obtain ⟨b, i, hk', hi⟩ := hk a _ t hp (by rw [ht.state]; rfl)
    simp only [Flow.andThen, hk', Flow.Ends]
    exact ⟨i, evs, t, hi, ht, rfl⟩

theorem Flow.Does.bindEnds {α β ι : Type} {f : Flow α} {k : α → State → Flow β} {s : State} {p : α → List Event → Prop}
    {full : ι → List Event → Prop} {upd : ι → State → State} (hf : f.Does s p)
    (hk : ∀ a e₁ t, t.cfg = s.cfg → p a e₁ → (k a t).Ends t (fun i e₂ => full i (e₁ ++ e₂)) upd) :
    (f.andThen k).Ends s full upd := by
  cases f with
  | hung t =>
    obtain ⟨evs, rest, a, hp, hr, ht, h0⟩ := hf
    have h := hk a _ s rfl hp
    cases hka : k a s with
    | on b u =>
      rw [hka] at h
      obtain ⟨i, e, _, hi, _⟩ := h
      exact ⟨i, evs, rest ++ e, by simpa using hi, by simp [hr], ht, h0⟩
    | hung u =>
      rw [hka] at h
      obtain ⟨i, e, r, hi, _⟩ := h
      exact ⟨i, evs, rest ++ (e ++ r), by simpa using hi, by simp [hr], ht, h0⟩
  | on a t =>
    obtain ⟨e₁, hp, ht⟩ := hf
    have h₂ := hk a e₁ t (by rw [ht.state]; rfl) hp
    show Flow.Ends (k a t) s _ _
    cases hka : k a t with
    | on b u =>
      rw [hka] at h₂
      obtain ⟨i, e₂, v, hi, hv, rfl⟩ := h₂
      exact ⟨i, e₁ ++ e₂, v, hi, ht.trans hv, rfl⟩
    | hung u =>
      rw [hka] at h₂
      obtain ⟨i, e₂, rest, hi, hr, hu, h0⟩ := h₂
      exact ⟨i, e₁ ++ e₂, rest, by simpa using hi, hr, ht.trans hu, h0⟩

theorem Flow.andThen_assoc {α β γ : Type} (f : Flow α) (g : α → State → Flow β) (h : β → State → Flow γ) :
    (f.andThen g).andThen h = f.andThen fun a s => (g a s).andThen h := by
  cases f <;> rfl

/-- Four bytes are the bytes of their payload (R52). -/
theorem payloadOf_bytes {r : List Byte} (h : r.length = 4) : (payloadOf r).bytes = r := by
  match r, h with
  | [a, b, c, d], _ => rfl

/-- A read followed by a write of results: the address transaction, the capture transaction of `n` bytes, then `PB` and the
results (R123, R125). -/
theorem readPath_ends (n : Nat) (hn : 4 ≤ n) (a : Byte) (k : Payload → State → State) (s : State) :
    ((readPath n a s).andThen fun p u => .on () (k p u)).Ends s
      (fun p evs => ∃ ra dropped : List Byte, ra.length = 4 ∧ dropped.length = n - 4 ∧
        evs = readEvents s.cfg a ra dropped p)
      (fun p u => k p { u with PB := some p }) := by
  unfold readPath
  rw [Flow.andThen_assoc]
  refine (sendf_does _ s).bindEnds fun _ e₁ t ht h₁ => ?_
  rw [Flow.andThen_assoc]
  refine (txn_does _ t).write fun r evs u hr hu => ⟨(), payloadOf (r.drop (n - 4)), rfl, ?_⟩
  obtain ⟨ra, hra, rfl⟩ := h₁
  obtain ⟨hl, rfl⟩ := hr
  simp only [List.length_replicate] at hl
  refine ⟨ra, r.take (n - 4), hra, by simp [hl], ?_⟩
  rw [readEvents, payloadOf_bytes (by simp [hl]; omega), List.take_append_drop, ht]
  have : (r.take (n - 4)).length + 4 = n := by simp [hl]; omega
  rw [this]
  rfl

/-! ## Commands -/

/-- A command that ran: completed with `ok` after one of the complete event lists of some `i` and the writes `upd i`, or hung
inside one with nothing written. -/
def Ran {ι : Type} (o : Outcome) (s : State) (full : ι → List Event → Prop) (upd : ι → State → State) : Prop :=
  (∃ i evs u, full i evs ∧ Performs s evs u ∧ o = .next ((upd i u).complete .OK)) ∨
  (∃ i evs rest t, full i (evs ++ rest) ∧ rest ≠ [] ∧ Performs s evs t ∧ t.STALL = some 0 ∧ o = .next t)

theorem Flow.Ends.ran {ι : Type} {f : Flow Unit} {s : State} {full : ι → List Event → Prop} {upd : ι → State → State}
    (h : f.Ends s full upd) : Ran f.finish s full upd := by
  cases f with
  | on a t =>
    obtain ⟨i, evs, u, hi, hu, rfl⟩ := h
    exact .inl ⟨i, evs, u, hi, hu, rfl⟩
  | hung t =>
    obtain ⟨i, evs, rest, hi, hr, ht, h0⟩ := h
    exact .inr ⟨i, evs, rest, t, hi, hr, ht, h0, rfl⟩

theorem Flow.Does.ran {f : Flow Unit} {s : State} {full : Unit → List Event → Prop} (h : f.Does s full) :
    Ran f.finish s full (fun _ u => u) := by
  cases f with
  | on a t =>
    obtain ⟨evs, hi, ht⟩ := h
    exact .inl ⟨a, evs, t, hi, ht, rfl⟩
  | hung t =>
    obtain ⟨evs, rest, a, hi, hr, ht, h0⟩ := h
    exact .inr ⟨a, evs, rest, t, hi, hr, ht, h0, rfl⟩

/-- With a platform that does its duty (R277) a command that ran completed. -/
theorem Ran.live {ι : Type} {o : Outcome} {s : State} {full : ι → List Event → Prop} {upd : ι → State → State}
    (h : Ran o s full upd) (hs : s.STALL = none) :
    ∃ i evs, full i evs ∧ Answered s evs ∧
      o = .next ((upd i { s.afterEvents evs with SEQ := s.SEQ.map (· + evs.length) }).complete .OK) := by
  rcases h with ⟨i, evs, u, hi, hu, rfl⟩ | ⟨_, _, _, t, _, _, ht, h0, _⟩
  · refine ⟨i, evs, hi, hu.answered, ?_⟩
    rw [hu.state]
    cases s
    simp_all [State.didAll, State.afterEvents]
  · have : t.STALL = none := by rw [ht.state]; simp [State.didAll, hs]
    simp [this] at h0

theorem execInit_ran (s : State) :
    Ran (execInit s) s (fun (_ : Unit) evs => evs = bringupEvents s.cfg)
      (fun _ u => { u with READY := true, RINT := some 1 }) :=
  Flow.Ends.ran ((bringup_does s).write fun _ _ _ h _ => ⟨(), (), rfl, h⟩)

theorem readyError_eq_none {s : State} : readyError s = none ↔ s.READY = true := by
  unfold readyError; split <;> simp_all

theorem readyError_eq_some {s : State} (h : s.READY = false) : readyError s = some .NOT_READY := by
  simp [readyError, h]

theorem execSendFrame_ran (ra wa dl dh : Byte) (s : State) (h : s.READY = true) :
    Ran (execSendFrame ra wa dl dh s) s
      (fun (_ : Unit) evs => ∃ r : List Byte, r.length = 4 ∧ evs = txnEvents s.cfg [ra, wa, dl, dh] r) (fun _ u => u) := by
  rw [execSendFrame, readyError_eq_none.2 h]
  exact (sendf_does _ s).ran

theorem execReadFrame_ran (addr : Byte) (s : State) (h : s.READY = true) :
    Ran (execReadFrame addr s) s
      (fun p evs => ∃ ra dropped : List Byte, ra.length = 4 ∧ dropped.length = 0 ∧
        evs = readEvents s.cfg addr ra dropped p)
      (fun p u => { u with PB := some p }) := by
  rw [execReadFrame, readyError_eq_none.2 h]
  exact (readPath_ends 4 (by omega) addr (fun _ u => u) s).ran

theorem execReadFrameSettled_ran (addr : Byte) (s : State) (h : s.READY = true) :
    Ran (execReadFrameSettled addr s) s
      (fun p evs => ∃ ra dropped : List Byte, ra.length = 4 ∧ dropped.length = 12 ∧
        evs = readEvents s.cfg addr ra dropped p)
      (fun p u => { u with PB := some p }) := by
  rw [execReadFrameSettled, readyError_eq_none.2 h]
  exact (readPath_ends 16 (by omega) addr (fun _ u => u) s).ran

theorem execLatch_ran (s : State) (h : s.READY = true) (hl : latchError s.cfg = none) :
    Ran (execLatch s) s (fun (_ : Unit) evs => IsLatch s.cfg evs) (fun _ u => u) := by
  rw [execLatch, readyError_eq_none.2 h, hl]
  exact (latchSeq_does s hl).ran

/-- The events of the latch of a measurement read: none when it does not latch (R142). -/
def MeasureLatch (latches : Bool) (s : State) (evs : List Event) : Prop :=
  if needsLatch latches s then IsLatch s.cfg evs else evs = []

theorem latchIfNeeded_does (latches : Bool) (s : State) (h : readError latches s = none) :
    (latchIfNeeded latches s).Does s (fun _ evs => MeasureLatch latches s evs) := by
  unfold latchIfNeeded MeasureLatch
  split
  · rename_i hn
    refine latchSeq_does s ?_
    cases hr : readyError s <;> cases hl : latchError s.cfg <;> simp_all [readError, firstError]
  · exact .pure _ _ _ rfl

/-- A measurement read on a legal channel: one of the state checks fails, or it runs the latch it needs and then its body. -/
theorem measureRead_ran {q : Quantity} {latches sent : Bool} {ch : Byte} {body : Chan → Byte → State → Flow Unit} {s : State}
    {c : Chan} {a : Byte} {ι : Type} {full : ι → List Event → Prop} {upd : ι → State → State}
    (hc : readChan q ch = some c) (ha : addrOf s.cfg.P_ADDR_MAP ch q = some a) (he : readError latches s = none)
    (hb : ∀ t : State, t.cfg = s.cfg → (body c a t).Ends t full upd) :
    Ran (measureRead q latches sent ch body s) s
      (fun i evs => ∃ lat evs', MeasureLatch latches s lat ∧ evs = lat ++ evs' ∧ full i evs') upd := by
  rw [measureRead, hc, ha, he]
  refine Flow.Ends.ran ((latchIfNeeded_does latches s he).bindEnds fun _ lat t ht hl => ?_)
  have h := hb t ht
  cases hbt : body c a t with
  | on b u =>
    rw [hbt] at h
    obtain ⟨i, evs, v, hi, hv, rfl⟩ := h
    exact ⟨i, evs, v, ⟨lat, evs, hl, rfl, hi⟩, hv, rfl⟩
  | hung u =>
    rw [hbt] at h
    obtain ⟨i, evs, rest, hi, hr, hu, h0⟩ := h
    exact ⟨i, evs, rest, ⟨lat, evs ++ rest, hl, rfl, hi⟩, hr, hu, h0⟩

theorem measureRead_error {q : Quantity} {latches sent : Bool} {ch : Byte} {body : Chan → Byte → State → Flow Unit} {s : State}
    {c : Chan} {a : Byte} {e : Status} (hc : readChan q ch = some c) (ha : addrOf s.cfg.P_ADDR_MAP ch q = some a)
    (he : readError latches s = some e) : measureRead q latches sent ch body s = raise e s := by
  rw [measureRead, hc, ha, he]

/-- A channel is legal for a read exactly when its register exists (R192, R190). -/
theorem addrOf_isSome (m : AddrMap) (ch : Byte) (q : Quantity) : (addrOf m ch q).isSome = (readChan q ch).isSome := by
  cases q <;> simp only [addrOf, readChan] <;> cases chanOf ch with
  | none => rfl
  | some c => cases c <;> rfl

theorem measureRead_invalid {q : Quantity} {latches sent : Bool} {ch : Byte} {body : Chan → Byte → State → Flow Unit} {s : State}
    (hc : readChan q ch = none) :
    measureRead q latches sent ch body s = if sent then raiseSentinel s else raise .INVALID_CHANNEL s := by
  rw [measureRead, hc]

theorem readRmsBody_ends (c : Chan) (a : Byte) (s : State) :
    (readRmsBody c a s).Ends s
      (fun p evs => ∃ ra dropped : List Byte, ra.length = 4 ∧ dropped.length = 0 ∧ evs = readEvents s.cfg a ra dropped p)
      (fun p u => { u with
        PB := some p
        RVAL0 := some (convV u.cfg.P_NUMERICS (u.CAL_V.get c) (field_0_14 p))
        RVAL1 := some (convI u.cfg.P_NUMERICS (u.CAL_I.get c) (field_15_32 p)) }) :=
  readPath_ends 4 (by omega) a _ s

theorem readRmsVBody_ends (c : Chan) (a : Byte) (s : State) :
    (readRmsVBody c a s).Ends s
      (fun p evs => ∃ ra dropped : List Byte, ra.length = 4 ∧ dropped.length = 0 ∧ evs = readEvents s.cfg a ra dropped p)
      (fun p u => { u with
        PB := some p, RVAL0 := some (convV u.cfg.P_NUMERICS (u.CAL_V.get c) (field_0_14 p)) }) :=
  readPath_ends 4 (by omega) a _ s

theorem readRmsIBody_ends (c : Chan) (a : Byte) (s : State) :
    (readRmsIBody c a s).Ends s
      (fun p evs => ∃ ra dropped : List Byte, ra.length = 4 ∧ dropped.length = 0 ∧ evs = readEvents s.cfg a ra dropped p)
      (fun p u => { u with
        PB := some p, RVAL0 := some (convI u.cfg.P_NUMERICS (u.CAL_I.get c) (field_15_32 p)) }) :=
  readPath_ends 4 (by omega) a _ s

theorem readPowerBody_ends (c : Chan) (a : Byte) (s : State) :
    (readPowerBody c a s).Ends s
      (fun p evs => ∃ ra dropped : List Byte, ra.length = 4 ∧ dropped.length = 0 ∧ evs = readEvents s.cfg a ra dropped p)
      (fun p u => { u with
        PB := some p, RVAL0 := some (convP u.cfg.P_NUMERICS (u.CAL_V.get c) (u.CAL_I.get c) (field_0_28 p)) }) :=
  readPath_ends 4 (by omega) a _ s

/-- How many received bytes an energy read drops: 12 on the settle path, none on the plain one (R197). -/
def energyDropped (cfg : Config) (c : Chan) : Nat := if c = .ch0 ∨ cfg.P_ENERGY_CH_PATH = .SETTLED then 12 else 0

theorem readEnergyBody_ends (c : Chan) (a : Byte) (s : State) :
    (readEnergyBody c a s).Ends s
      (fun p evs => ∃ ra dropped : List Byte, ra.length = 4 ∧ dropped.length = energyDropped s.cfg c ∧
        evs = readEvents s.cfg a ra dropped p)
      (fun p u => { u with PB := some p, RVAL0 := some (convE u.cfg.P_NUMERICS (field_u32 p)) }) := by
  unfold readEnergyBody energyPath energyDropped
  split
  · exact readPath_ends 16 (by omega) a _ s
  · exact readPath_ends 4 (by omega) a _ s

/-! ## Small facts -/

/-- The received bytes of a transaction are what came back. -/
theorem received_txnEvents (c : Config) (a b : List Byte) (h : a.length = b.length) :
    received (txnEvents c a b) = b := by
  have : ∀ a b : List Byte, a.length = b.length → received (List.zipWith Event.X a b) = b := by
    intro a
    induction a with
    | nil => intro b h; cases b <;> simp_all [received]
    | cons x xs ih => intro b h; cases b with
      | nil => simp at h
      | cons y ys => simp [received, ih ys (by simpa using h)]
  simp [txnEvents, received_append, received, this a b h]

/-- The two readings of R240 `LATCH_UNAVAILABLE` agree. -/
theorem latchError_eq_none {c : Config} : latchError c = none ↔ LatchAvailable c := by
  unfold LatchAvailable latchError
  cases h : c.P_LATCH_STRATEGY <;> cases h2 : c.P_SYNC_PIN <;> simp

/-- A measurement read passes its state checks when bring-up has run and the latch it may need can run (R198). -/
theorem readError_eq_none {s : State} {l : Bool} (hr : s.READY = true) (h : s.AUTO_LATCH = true ∨ LatchAvailable s.cfg) :
    readError l s = none := by
  rw [readError, readyError_eq_none.2 hr]
  by_cases hn : needsLatch l s
  · simp only [hn, if_true]
    rcases h with h | h
    · simp [needsLatch, h] at hn
    · simp [latchError_eq_none.2 h, firstError]
  · simp [hn, firstError]

/-- What the events of bring-up leave (R101, R107). -/
theorem afterEvents_bringup (s : State) :
    s.afterEvents (bringupEvents s.cfg) = { s with
      BUS_BEGUN := true
      TRACE := s.TRACE ++ bringupEvents s.cfg
      PIN :=
        { CS := .out (some .HIGH)
          RST := .out (some .HIGH)
          SYNC := if s.cfg.P_SYNC_PIN.isSome then .out (some .HIGH) else s.PIN.SYNC } } := by
  have hr : ∀ c, received (bringupEvents c) = [] := by
    intro c; cases h : c.P_SYNC_PIN <;> simp [bringupEvents, h, received, syncToggleEvents]
  have hb : ∀ c, begins (bringupEvents c) = true := by
    intro c; cases h : c.P_SYNC_PIN <;> simp [bringupEvents, h, begins]
  have ht : ∀ c b, replayInTxn b (bringupEvents c) = b := by
    intro c b; cases h : c.P_SYNC_PIN <;> simp [bringupEvents, h, replayInTxn, syncToggleEvents]
  simp only [State.afterEvents, hr, hb, ht]
  simp
  cases hs : s.cfg.P_SYNC_PIN with
  | none =>
    simp [replayPins, hs, replayPin, bringupEvents, pinEvent]
  | some p =>
    simp [replayPins, hs, replayPin, bringupEvents, pinEvent, syncToggleEvents]
    generalize s.cfg.P_CS_PIN = a
    generalize s.cfg.P_RST_PIN = b
    by_cases h : a = b <;> by_cases h' : p = a <;> by_cases h'' : p = b <;> simp_all

end Sys2Proof.Machine
end

