-- ==== Sys2Proof/Laws/Exec.lean ====
section
/-! SUPPORT. Everything a command can do, said once (`exec_behaves`): it raises a status, it writes results without an interface
action, or it runs one of its event lists and then writes its results. A proof over all commands cites this and unfolds no
meaning. -/

namespace Sys2Proof.Machine

/-- The result writes of a command without interface actions, when it succeeds: `t` is `s` with them (R37). -/
def PureWrite (i : Instr) (s t : State) : Prop :=
  match i with
  | .addrLookup ch qty => ∃ q a, quantityOf qty = some q ∧ addrOf s.cfg.P_ADDR_MAP ch q = some a ∧
      t = { s with RINT := some (a.toNat : Int) }
  | .setCal kv ki => positiveFinite kv = true ∧ positiveFinite ki = true ∧
      t = { s with
        CAL_V := CalRow.uniform (num32 s.cfg.P_NUMERICS kv)
        CAL_I := CalRow.uniform (num32 s.cfg.P_NUMERICS ki) }
  | .setAutoLatch flag => ∃ b, flagOf flag = some b ∧ t = { s with AUTO_LATCH := b }
  | .setCrc flag => ∃ b, flagOf flag = some b ∧ t = { s with CRC_EN := b }
  | .field014 b0 b1 b2 b3 => t = { s with RINT := some (field_0_14 ⟨b0, b1, b2, b3⟩ : Int) }
  | .field1532 b0 b1 b2 b3 => t = { s with RINT := some (field_15_32 ⟨b0, b1, b2, b3⟩ : Int) }
  | .field028 b0 b1 b2 b3 => t = { s with RINT := some (field_0_28 ⟨b0, b1, b2, b3⟩) }
  | .fieldU32 b0 b1 b2 b3 => t = { s with RINT := some (field_u32 ⟨b0, b1, b2, b3⟩ : Int) }
  | .convV ch raw => raw.toNat ≤ 0x7FFF ∧ ∃ c, chanOf ch = some c ∧
      t = { s with RVAL0 := some (convV s.cfg.P_NUMERICS (s.CAL_V.get c) raw.toNat) }
  | .convI ch raw => raw.toNat ≤ 0x1FFFF ∧ ∃ c, chanOf ch = some c ∧
      t = { s with RVAL0 := some (convI s.cfg.P_NUMERICS (s.CAL_I.get c) raw.toNat) }
  | .convP ch raw => ∃ c, chanOf ch = some c ∧
      t = { s with RVAL0 := some (convP s.cfg.P_NUMERICS (s.CAL_V.get c) (s.CAL_I.get c) (sext32 raw.toNat)) }
  | .convE raw => t = { s with RVAL0 := some (convE s.cfg.P_NUMERICS raw.toNat) }
  | .init | .sendFrame _ _ _ _ | .readFrame _ | .readFrameSettled _ | .latch | .readRms _ | .readRmsV _ | .readRmsI _
  | .readPower _ | .readEnergy _ => False

/-- A complete event list of a read of register `a` after the events `lat`, with the payload `p` (R123, R125). -/
def IsRead (c : Config) (lat : List Event → Prop) (a : Byte) (n : Nat) (p : Payload) (evs : List Event) : Prop :=
  ∃ l e, lat l ∧ evs = l ++ e ∧ ∃ ra dropped : List Byte, ra.length = 4 ∧ dropped.length = n ∧ e = readEvents c a ra dropped p

/-- A complete event list of a measurement read (R198). -/
def IsMeasure (s : State) (q : Quantity) (ch : Byte) (lat : List Event → Prop) (n : Chan → Nat) (p : Payload)
    (evs : List Event) : Prop :=
  s.READY = true ∧ ∃ c a, readChan q ch = some c ∧ addrOf s.cfg.P_ADDR_MAP ch q = some a ∧ IsRead s.cfg lat a (n c) p evs

/-- The complete event lists of a command with interface actions; `p` is the payload it captures, if it captures one. -/
def BusEvents (i : Instr) (s : State) (p : Payload) (evs : List Event) : Prop :=
  match i with
  | .init => evs = bringupEvents s.cfg
  | .sendFrame ra wa dl dh => s.READY = true ∧ ∃ r : List Byte, r.length = 4 ∧ evs = txnEvents s.cfg [ra, wa, dl, dh] r
  | .readFrame addr => s.READY = true ∧ IsRead s.cfg (· = []) addr 0 p evs
  | .readFrameSettled addr => s.READY = true ∧ IsRead s.cfg (· = []) addr 12 p evs
  | .latch => s.READY = true ∧ IsLatch s.cfg evs
  | .readRms ch => IsMeasure s .RMS ch (ReadLatch s) (fun _ => 0) p evs
  | .readRmsV ch => IsMeasure s .RMS ch (ReadLatch s) (fun _ => 0) p evs
  | .readRmsI ch => IsMeasure s .RMS ch (ReadLatch s) (fun _ => 0) p evs
  | .readPower ch => IsMeasure s .POWER ch (ReadLatch s) (fun _ => 0) p evs
  | .readEnergy ch => IsMeasure s .ENERGY ch (· = []) (energyDropped s.cfg) p evs
  | .addrLookup _ _ | .setCal _ _ | .setAutoLatch _ | .setCrc _ | .field014 _ _ _ _ | .field1532 _ _ _ _ | .field028 _ _ _ _
  | .fieldU32 _ _ _ _ | .convV _ _ | .convI _ _ | .convP _ _ | .convE _ => False

/-- The channel of a read as an index; its value on an illegal channel is not used. -/
def chanIx (ch : Byte) : Chan := (chanOf ch).getD .ch0

/-- The result writes of a command with interface actions, made after them on the state they leave. -/
def busWrite (i : Instr) (p : Payload) (u : State) : State :=
  match i with
  | .init => { u with READY := true, RINT := some 1 }
  | .readFrame _ => { u with PB := some p }
  | .readFrameSettled _ => { u with PB := some p }
  | .readRms ch => { u with
      PB := some p
      RVAL0 := some (convV u.cfg.P_NUMERICS (u.CAL_V.get (chanIx ch)) (field_0_14 p))
      RVAL1 := some (convI u.cfg.P_NUMERICS (u.CAL_I.get (chanIx ch)) (field_15_32 p)) }
  | .readRmsV ch => { u with
      PB := some p, RVAL0 := some (convV u.cfg.P_NUMERICS (u.CAL_V.get (chanIx ch)) (field_0_14 p)) }
  | .readRmsI ch => { u with
      PB := some p, RVAL0 := some (convI u.cfg.P_NUMERICS (u.CAL_I.get (chanIx ch)) (field_15_32 p)) }
  | .readPower ch => { u with
      PB := some p
      RVAL0 := some (convP u.cfg.P_NUMERICS (u.CAL_V.get (chanIx ch)) (u.CAL_I.get (chanIx ch)) (field_0_28 p)) }
  | .readEnergy _ => { u with PB := some p, RVAL0 := some (convE u.cfg.P_NUMERICS (field_u32 p)) }
  | _ => u

/-- Everything a command can do. -/
inductive Behaves (i : Instr) (s : State) : Outcome → Prop where
  /-- It raises a status and does nothing else (R241). -/
  | raises (c : Status) : c ≠ .OK → ¬(c = .INVALID_CHANNEL ∧ leavesSentinel i = true) → Behaves i s (raise c s)
  /-- It raises `INVALID_CHANNEL` and leaves the sentinel (R198, R241). -/
  | sentinel : leavesSentinel i = true → Behaves i s (raiseSentinel s)
  /-- It writes results without an interface action. -/
  | writes (t : State) : PureWrite i s t → Behaves i s (ok t)
  /-- It runs interface actions, and then, if the platform completed them, writes its results. -/
  | runs (o : Outcome) : Ran o s (BusEvents i s) (busWrite i) → Behaves i s o

theorem Ran.mono {ι κ : Type} {o : Outcome} {s : State} {full : ι → List Event → Prop} {upd : ι → State → State}
    {full' : κ → List Event → Prop} {upd' : κ → State → State} (h : Ran o s full upd)
    (hk : ∀ i evs, full i evs → ∃ k, full' k evs ∧ ∀ u, upd' k u = upd i u) : Ran o s full' upd' := by
  rcases h with ⟨i, evs, u, hi, hu, rfl⟩ | ⟨i, evs, rest, t, hi, hr, ht, h0, rfl⟩
  · obtain ⟨k, hf, he⟩ := hk i evs hi
    exact .inl ⟨k, evs, u, hf, hu, by rw [he]⟩
  · obtain ⟨k, hf, _⟩ := hk i _ hi
    exact .inr ⟨k, evs, rest, t, hf, hr, ht, h0, rfl⟩

theorem readyError_some {s : State} {c : Status} (h : readyError s = some c) : c ≠ .OK ∧ c ≠ .INVALID_CHANNEL := by
  unfold readyError at h
  split at h
  · simp at h
  · injection h with h; subst h; simp

theorem latchError_some {cfg : Config} {c : Status} (h : latchError cfg = some c) : c ≠ .OK ∧ c ≠ .INVALID_CHANNEL := by
  unfold latchError at h
  split at h
  · injection h with h; subst h; simp
  · simp at h

theorem readError_some {l : Bool} {s : State} {c : Status} (h : readError l s = some c) :
    c ≠ .OK ∧ c ≠ .INVALID_CHANNEL := by
  unfold readError at h
  cases hr : readyError s with
  | some d => simp [hr, firstError] at h; exact h ▸ readyError_some hr
  | none =>
    by_cases hl : needsLatch l s = true
    · cases hd : latchError s.cfg with
      | none => simp [hr, hl, hd, firstError] at h
      | some d => simp [hr, hl, hd, firstError] at h; exact h ▸ latchError_some hd
    · simp [hr, hl, firstError] at h

theorem readError_none_ready {l : Bool} {s : State} (h : readError l s = none) : s.READY = true := by
  unfold readError at h
  cases hr : readyError s with
  | some d => simp [hr, firstError] at h
  | none => exact readyError_eq_none.1 hr

theorem readChan_chanIx {q : Quantity} {ch : Byte} {c : Chan} (h : readChan q ch = some c) : chanIx ch = c := by
  have hc : chanOf ch = some c := by
    unfold readChan at h
    split at h <;> simp_all
  simp [chanIx, hc]

theorem measureLatch_false {s : State} {evs : List Event} (h : MeasureLatch false s evs) : evs = [] := by
  simpa [MeasureLatch, needsLatch] using h

theorem measureLatch_true {s : State} {evs : List Event} (h : MeasureLatch true s evs) : ReadLatch s evs := by
  revert h
  unfold MeasureLatch ReadLatch needsLatch
  cases s.AUTO_LATCH <;> simp

/-- A measurement read behaves as its body says. -/
theorem measureRead_behaves {i : Instr} {q : Quantity} {latches sent : Bool} {ch : Byte}
    {body : Chan → Byte → State → Flow Unit} {s : State} {dropped : Config → Chan → Nat}
    {upd : Chan → Payload → State → State}
    (hsent : leavesSentinel i = sent)
    (hb : ∀ c a (t : State), (body c a t).Ends t (fun p evs => ∃ ra d : List Byte, ra.length = 4 ∧ d.length = dropped t.cfg c ∧
      evs = readEvents t.cfg a ra d p) (upd c))
    (hw : ∀ c p u, readChan q ch = some c → busWrite i p u = upd c p u)
    (he : ∀ c a p lat evs, s.READY = true → readChan q ch = some c → addrOf s.cfg.P_ADDR_MAP ch q = some a →
      MeasureLatch latches s lat → (∃ ra d : List Byte, ra.length = 4 ∧ d.length = dropped s.cfg c ∧
        evs = readEvents s.cfg a ra d p) → BusEvents i s p (lat ++ evs)) :
    Behaves i s (measureRead q latches sent ch body s) := by
  cases hc : readChan q ch with
  | none =>
    rw [measureRead_invalid hc]
    cases hs : sent with
    | false => exact .raises _ (by simp) (by simp [hsent, hs])
    | true => exact .sentinel (hsent.trans hs)
  | some c =>
    have ha : (addrOf s.cfg.P_ADDR_MAP ch q).isSome = true := by rw [addrOf_isSome, hc]; rfl
    obtain ⟨a, ha⟩ := Option.isSome_iff_exists.1 ha
    cases hr : readError latches s with
    | some e => rw [measureRead_error hc ha hr]; exact .raises _ (readError_some hr).1 fun h => (readError_some hr).2 h.1
    | none =>
      refine .runs _ ((measureRead_ran hc ha hr fun t ht => ?_).mono (full := fun p evs => ∃ lat evs',
        MeasureLatch latches s lat ∧ evs = lat ++ evs' ∧ ∃ ra d : List Byte, ra.length = 4 ∧ d.length = dropped s.cfg c ∧
          evs' = readEvents s.cfg a ra d p) (upd := upd c) ?_)
      · have := hb c a t
        rwa [ht] at this
      · rintro p evs ⟨lat, evs', hl, rfl, hx⟩
        exact ⟨p, he c a p lat evs' (readError_none_ready hr) hc ha hl hx, fun u => hw c p u hc⟩

/-- Everything a command can do, said once. -/
theorem exec_behaves (i : Instr) (s : State) : Behaves i s (exec i s) := by
  have any : Payload := ⟨0, 0, 0, 0⟩
  cases i with
  | init => exact .runs _ ((execInit_ran s).mono fun _ evs h => ⟨any, h, fun _ => rfl⟩)
  | sendFrame ra wa dl dh =>
    cases hr : readyError s with
    | some c => simp only [exec, execSendFrame, hr]; exact .raises _ (readyError_some hr).1 fun h => (readyError_some hr).2 h.1
    | none =>
      have h := readyError_eq_none.1 hr
      exact .runs _ ((execSendFrame_ran ra wa dl dh s h).mono fun _ evs he => ⟨any, ⟨h, he⟩, fun _ => rfl⟩)
  | readFrame addr =>
    cases hr : readyError s with
    | some c => simp only [exec, execReadFrame, hr]; exact .raises _ (readyError_some hr).1 fun h => (readyError_some hr).2 h.1
    | none =>
      have h := readyError_eq_none.1 hr
      exact .runs _ ((execReadFrame_ran addr s h).mono fun p evs he => ⟨p, ⟨h, [], evs, rfl, rfl, he⟩, fun _ => rfl⟩)
  | readFrameSettled addr =>
    cases hr : readyError s with
    | some c => simp only [exec, execReadFrameSettled, hr]; exact .raises _ (readyError_some hr).1 fun h => (readyError_some hr).2 h.1
    | none =>
      have h := readyError_eq_none.1 hr
      exact .runs _ ((execReadFrameSettled_ran addr s h).mono fun p evs he => ⟨p, ⟨h, [], evs, rfl, rfl, he⟩, fun _ => rfl⟩)
  | latch =>
    cases hr : readyError s with
    | some c => simp only [exec, execLatch, hr, firstError]; exact .raises _ (readyError_some hr).1 fun h => (readyError_some hr).2 h.1
    | none =>
      cases hl : latchError s.cfg with
      | some c => simp only [exec, execLatch, hr, hl, firstError]; exact .raises _ (latchError_some hl).1 fun h => (latchError_some hl).2 h.1
      | none =>
        have h := readyError_eq_none.1 hr
        exact .runs _ ((execLatch_ran s h hl).mono fun _ evs he => ⟨any, ⟨h, he⟩, fun _ => rfl⟩)
  | readRms ch =>
    refine measureRead_behaves (dropped := fun _ _ => 0) rfl (fun c a t => readRmsBody_ends c a t)
      (fun c p u hc => by rw [busWrite, readChan_chanIx hc]) fun c a p lat evs h hc ha hl he => ?_
    exact ⟨h, c, a, hc, ha, lat, evs, measureLatch_true hl, rfl, he⟩
  | readRmsV ch =>
    refine measureRead_behaves (dropped := fun _ _ => 0) rfl (fun c a t => readRmsVBody_ends c a t)
      (fun c p u hc => by rw [busWrite, readChan_chanIx hc]) fun c a p lat evs h hc ha hl he => ?_
    exact ⟨h, c, a, hc, ha, lat, evs, measureLatch_true hl, rfl, he⟩
  | readRmsI ch =>
    refine measureRead_behaves (dropped := fun _ _ => 0) rfl (fun c a t => readRmsIBody_ends c a t)
      (fun c p u hc => by rw [busWrite, readChan_chanIx hc]) fun c a p lat evs h hc ha hl he => ?_
    exact ⟨h, c, a, hc, ha, lat, evs, measureLatch_true hl, rfl, he⟩
  | readPower ch =>
    refine measureRead_behaves (dropped := fun _ _ => 0) rfl (fun c a t => readPowerBody_ends c a t)
      (fun c p u hc => by rw [busWrite, readChan_chanIx hc]) fun c a p lat evs h hc ha hl he => ?_
    exact ⟨h, c, a, hc, ha, lat, evs, measureLatch_true hl, rfl, he⟩
  | readEnergy ch =>
    refine measureRead_behaves (dropped := energyDropped) rfl (fun c a t => readEnergyBody_ends c a t)
      (fun c p u hc => rfl) fun c a p lat evs h hc ha hl he => ?_
    exact ⟨h, c, a, hc, ha, lat, evs, measureLatch_false hl, rfl, he⟩
  | addrLookup ch qty =>
    cases hq : quantityOf qty with
    | none => simp only [exec, execAddrLookup, hq]; exact .raises .ILLEGAL_OPERAND (by simp) (by simp [leavesSentinel, Instr.op])
    | some q =>
      cases ha : addrOf s.cfg.P_ADDR_MAP ch q with
      | none => simp only [exec, execAddrLookup, hq, ha]; exact .raises .INVALID_CHANNEL (by simp) (by simp [leavesSentinel, Instr.op])
      | some a => simp only [exec, execAddrLookup, hq, ha]; exact .writes _ ⟨q, a, hq, ha, rfl⟩
  | setCal kv ki =>
    simp only [exec, execSetCal]
    split
    · rename_i h
      simp only [Bool.and_eq_true] at h
      exact .writes _ ⟨h.1, h.2, rfl⟩
    · exact .raises .INVALID_CAL (by simp) (by simp [leavesSentinel, Instr.op])
  | setAutoLatch flag =>
    cases hf : flagOf flag with
    | none => simp only [exec, execSetAutoLatch, hf]; exact .raises .ILLEGAL_OPERAND (by simp) (by simp [leavesSentinel, Instr.op])
    | some b => simp only [exec, execSetAutoLatch, hf]; exact .writes _ ⟨b, hf, rfl⟩
  | setCrc flag =>
    cases hf : flagOf flag with
    | none => simp only [exec, execSetCrc, hf]; exact .raises .ILLEGAL_OPERAND (by simp) (by simp [leavesSentinel, Instr.op])
    | some b => simp only [exec, execSetCrc, hf]; exact .writes _ ⟨b, hf, rfl⟩
  | field014 b0 b1 b2 b3 => exact .writes _ rfl
  | field1532 b0 b1 b2 b3 => exact .writes _ rfl
  | field028 b0 b1 b2 b3 => exact .writes _ rfl
  | fieldU32 b0 b1 b2 b3 => exact .writes _ rfl
  | convV ch raw =>
    by_cases hr : 0x7FFF < raw.toNat
    · simp only [exec, execConvV, hr, if_true]; exact .raises .ILLEGAL_OPERAND (by simp) (by simp [leavesSentinel, Instr.op])
    · cases hc : chanOf ch with
      | none => simp only [exec, execConvV, hr, if_false, hc]; exact .sentinel rfl
      | some c => simp only [exec, execConvV, hr, if_false, hc]; exact .writes _ ⟨by omega, c, hc, rfl⟩
  | convI ch raw =>
    by_cases hr : 0x1FFFF < raw.toNat
    · simp only [exec, execConvI, hr, if_true]; exact .raises .ILLEGAL_OPERAND (by simp) (by simp [leavesSentinel, Instr.op])
    · cases hc : chanOf ch with
      | none => simp only [exec, execConvI, hr, if_false, hc]; exact .sentinel rfl
      | some c => simp only [exec, execConvI, hr, if_false, hc]; exact .writes _ ⟨by omega, c, hc, rfl⟩
  | convP ch raw =>
    cases hc : chanOf ch with
    | none => simp only [exec, execConvP, hc]; exact .sentinel rfl
    | some c => simp only [exec, execConvP, hc]; exact .writes _ ⟨c, hc, rfl⟩
  | convE raw => exact .writes _ rfl

/-- The five ways to a next state of a command. -/
theorem exec_next {i : Instr} {s t : State} (h : exec i s = .next t) :
    (∃ c, c ≠ .OK ∧ ¬(c = .INVALID_CHANNEL ∧ leavesSentinel i = true) ∧ t = s.complete c) ∨
    (leavesSentinel i = true ∧
      t = ({ s with RVAL0 := some (sentinel s.cfg.P_NUMERICS) } : State).complete .INVALID_CHANNEL) ∨
    (∃ u, PureWrite i s u ∧ t = u.complete .OK) ∨
    (∃ p evs, BusEvents i s p evs ∧ Answered s evs ∧ (∀ k, s.STALL = some k → evs.length ≤ k) ∧
      t = (busWrite i p (s.didAll evs)).complete .OK) ∨
    (∃ p evs rest, BusEvents i s p (evs ++ rest) ∧ rest ≠ [] ∧ Answered s evs ∧ t = s.didAll evs ∧
      t.STALL = some 0) := by
  have hb := exec_behaves i s
  rw [h] at hb
  generalize ho : (Host.Outcome.next t : Outcome) = o at hb
  cases hb with
  | raises c hc hc' => exact .inl ⟨c, hc, hc', by injection ho⟩
  | sentinel hl => exact .inr (.inl ⟨hl, by injection ho⟩)
  | writes u hu => exact .inr (.inr (.inl ⟨u, hu, by injection ho⟩))
  | runs _ hr =>
    rcases hr with ⟨p, evs, u, hi, hu, he⟩ | ⟨p, evs, rest, u, hi, hr, hu, h0, he⟩
    · rw [he] at ho
      injection ho with ho
      exact .inr (.inr (.inr (.inl ⟨p, evs, hi, hu.answered, hu.budget, by rw [ho, hu.state]⟩)))
    · rw [he] at ho
      injection ho with ho
      exact .inr (.inr (.inr (.inr ⟨p, evs, rest, hi, hr, hu.answered, by rw [ho, hu.state], by rw [ho, h0]⟩)))

/-- What a command without interface actions leaves alone (R37). -/
theorem PureWrite.frame {i : Instr} {s u : State} (h : PureWrite i s u) :
    u.cfg = s.cfg ∧ u.BUSY = s.BUSY ∧ u.READY = s.READY ∧ u.PIN = s.PIN ∧ u.BUS_BEGUN = s.BUS_BEGUN ∧ u.IN_TXN = s.IN_TXN ∧
    u.TRACE = s.TRACE ∧ u.SEQ = s.SEQ ∧ u.IC = s.IC ∧ u.STALL = s.STALL ∧ u.PORT = s.PORT ∧ u.PB = s.PB ∧
    u.RVAL1 = s.RVAL1 ∧
    (i.op ≠ .SET_AUTO_LATCH → u.AUTO_LATCH = s.AUTO_LATCH) ∧ (i.op ≠ .SET_CRC → u.CRC_EN = s.CRC_EN) ∧
    (i.op ≠ .SET_CAL → u.CAL_V = s.CAL_V ∧ u.CAL_I = s.CAL_I) ∧
    (i.op ∉ [Op.CONV_V, .CONV_I, .CONV_P, .CONV_E] → u.RVAL0 = s.RVAL0) ∧
    (i.op ∉ [Op.ADDR_LOOKUP, .FIELD_0_14, .FIELD_15_32, .FIELD_0_28, .FIELD_U32] → u.RINT = s.RINT) := by
  cases i <;> simp only [PureWrite] at h
  case addrLookup => obtain ⟨_, _, _, _, rfl⟩ := h; simp [Instr.op]
  case setCal => obtain ⟨_, _, rfl⟩ := h; simp [Instr.op]
  case setAutoLatch => obtain ⟨_, _, rfl⟩ := h; simp [Instr.op]
  case setCrc => obtain ⟨_, _, rfl⟩ := h; simp [Instr.op]
  case convV => obtain ⟨_, _, _, rfl⟩ := h; simp [Instr.op]
  case convI => obtain ⟨_, _, _, rfl⟩ := h; simp [Instr.op]
  case convP => obtain ⟨_, _, rfl⟩ := h; simp [Instr.op]
  all_goals subst h; simp [Instr.op]

/-! What the result writes of a command with interface actions leave alone (R37). -/

@[simp] theorem busWrite_cfg (i : Instr) (p : Payload) (u : State) : (busWrite i p u).cfg = u.cfg := by cases i <;> rfl
@[simp] theorem busWrite_BUSY (i : Instr) (p : Payload) (u : State) : (busWrite i p u).BUSY = u.BUSY := by cases i <;> rfl
@[simp] theorem busWrite_AUTO_LATCH (i : Instr) (p : Payload) (u : State) : (busWrite i p u).AUTO_LATCH = u.AUTO_LATCH := by cases i <;> rfl
@[simp] theorem busWrite_CRC_EN (i : Instr) (p : Payload) (u : State) : (busWrite i p u).CRC_EN = u.CRC_EN := by cases i <;> rfl
@[simp] theorem busWrite_CAL_V (i : Instr) (p : Payload) (u : State) : (busWrite i p u).CAL_V = u.CAL_V := by cases i <;> rfl
@[simp] theorem busWrite_CAL_I (i : Instr) (p : Payload) (u : State) : (busWrite i p u).CAL_I = u.CAL_I := by cases i <;> rfl
@[simp] theorem busWrite_STATUS (i : Instr) (p : Payload) (u : State) : (busWrite i p u).STATUS = u.STATUS := by cases i <;> rfl
@[simp] theorem busWrite_PIN (i : Instr) (p : Payload) (u : State) : (busWrite i p u).PIN = u.PIN := by cases i <;> rfl
@[simp] theorem busWrite_BUS_BEGUN (i : Instr) (p : Payload) (u : State) : (busWrite i p u).BUS_BEGUN = u.BUS_BEGUN := by cases i <;> rfl
@[simp] theorem busWrite_IN_TXN (i : Instr) (p : Payload) (u : State) : (busWrite i p u).IN_TXN = u.IN_TXN := by cases i <;> rfl
@[simp] theorem busWrite_TRACE (i : Instr) (p : Payload) (u : State) : (busWrite i p u).TRACE = u.TRACE := by cases i <;> rfl
@[simp] theorem busWrite_SEQ (i : Instr) (p : Payload) (u : State) : (busWrite i p u).SEQ = u.SEQ := by cases i <;> rfl
@[simp] theorem busWrite_IC (i : Instr) (p : Payload) (u : State) : (busWrite i p u).IC = u.IC := by cases i <;> rfl
@[simp] theorem busWrite_STALL (i : Instr) (p : Payload) (u : State) : (busWrite i p u).STALL = u.STALL := by cases i <;> rfl
@[simp] theorem busWrite_PORT (i : Instr) (p : Payload) (u : State) : (busWrite i p u).PORT = u.PORT := by cases i <;> rfl

theorem busWrite_READY (i : Instr) (p : Payload) (u : State) :
    (busWrite i p u).READY = (u.READY || decide (i.op = .INIT)) := by
  cases i <;> first | exact (Bool.or_false _).symm | exact (Bool.or_true _).symm

theorem busWrite_RINT (i : Instr) (p : Payload) (u : State) :
    (busWrite i p u).RINT = if i.op = .INIT then some 1 else u.RINT := by
  cases i <;> rfl

theorem busWrite_PB {i : Instr} (p : Payload) (u : State)
    (h : i.op ∉ [Op.READ_FRAME, .READ_FRAME_SETTLED, .READ_RMS, .READ_RMS_V, .READ_RMS_I, .READ_POWER, .READ_ENERGY]) :
    (busWrite i p u).PB = u.PB := by
  cases i <;> first | rfl | simp [Instr.op] at h

theorem busWrite_RVAL0 {i : Instr} (p : Payload) (u : State)
    (h : i.op ∉ [Op.READ_RMS, .READ_RMS_V, .READ_RMS_I, .READ_POWER, .READ_ENERGY]) :
    (busWrite i p u).RVAL0 = u.RVAL0 := by
  cases i <;> first | rfl | simp [Instr.op] at h

theorem busWrite_RVAL1 {i : Instr} (p : Payload) (u : State) (h : i.op ≠ .READ_RMS) :
    (busWrite i p u).RVAL1 = u.RVAL1 := by
  cases i <;> first | rfl | exact absurd rfl h

/-- The commands with interface actions (R37). -/
theorem BusEvents.op {i : Instr} {s : State} {p : Payload} {evs : List Event} (h : BusEvents i s p evs) :
    i.op = .INIT ∨ (s.READY = true ∧ needsReady i = true) := by
  cases i <;> first | exact .inl rfl | exact .inr ⟨h.1, by simp [needsReady, Instr.op]⟩ | exact h.elim

/-- A step either waits, or rejects a string that is no command, or runs a command on the accepted state. -/
theorem step_cases {s t : State} (h : step s = .next t) :
    s.BUSY = false ∧
    ((s.PORT = [] ∧ t = s) ∨
     ∃ c later, s.PORT = c :: later ∧
       ((∃ e, decode c.bytes = .error e ∧ t = (s.accept later).complete (decodeStatus e)) ∨
        (∃ i, decode c.bytes = .ok i ∧ exec i (s.accept later) = .next t))) := by
  unfold step at h
  cases hb : s.BUSY with
  | true => simp [hb] at h
  | false =>
    refine ⟨rfl, ?_⟩
    simp only [hb] at h
    cases hp : s.PORT with
    | nil => simp [hp] at h; exact .inl ⟨rfl, h.symm⟩
    | cons c later =>
      refine .inr ⟨c, later, rfl, ?_⟩
      simp only [hp] at h
      cases hd : decode c.bytes with
      | error e => simp [hd, rejectCommand, raise] at h; exact .inl ⟨e, rfl, h.symm⟩
      | ok i => simp [hd] at h; exact .inr ⟨i, rfl, h⟩

end Sys2Proof.Machine
end

