-- ==== Sys2Proof/Laws/PerInstr.lean ====
section
/-! SUPPORT. Statements made command by command. -/

namespace Sys2Proof.Laws.EncodeShape

/-- The encoding of a command begins with its opcode byte, which names its opcode again, and has the length of its opcode (R73,
R75). -/
def Statement (i : Instr) : Prop :=
  ∃ rest : List Byte, encode i = i.op.code :: rest ∧ opOf i.op.code = some i.op ∧ rest.length + 1 = i.op.length

theorem all (i : Instr) : Statement i := ⟨i.operandBytes, rfl, opOf_code _, operandBytes_length i⟩

theorem init : Statement (.init) := all _
theorem sendFrame (ra wa dl dh : Byte) : Statement (.sendFrame ra wa dl dh) := all _
theorem readFrame (addr : Byte) : Statement (.readFrame addr) := all _
theorem readFrameSettled (addr : Byte) : Statement (.readFrameSettled addr) := all _
theorem latch : Statement (.latch) := all _
theorem readRms (ch : Byte) : Statement (.readRms ch) := all _
theorem readRmsV (ch : Byte) : Statement (.readRmsV ch) := all _
theorem readRmsI (ch : Byte) : Statement (.readRmsI ch) := all _
theorem readPower (ch : Byte) : Statement (.readPower ch) := all _
theorem readEnergy (ch : Byte) : Statement (.readEnergy ch) := all _
theorem addrLookup (ch qty : Byte) : Statement (.addrLookup ch qty) := all _
theorem setCal (kv ki : BitVec 32) : Statement (.setCal kv ki) := all _
theorem setAutoLatch (flag : Byte) : Statement (.setAutoLatch flag) := all _
theorem setCrc (flag : Byte) : Statement (.setCrc flag) := all _
theorem field014 (b0 b1 b2 b3 : Byte) : Statement (.field014 b0 b1 b2 b3) := all _
theorem field1532 (b0 b1 b2 b3 : Byte) : Statement (.field1532 b0 b1 b2 b3) := all _
theorem field028 (b0 b1 b2 b3 : Byte) : Statement (.field028 b0 b1 b2 b3) := all _
theorem fieldU32 (b0 b1 b2 b3 : Byte) : Statement (.fieldU32 b0 b1 b2 b3) := all _
theorem convV (ch : Byte) (raw15 : BitVec 16) : Statement (.convV ch raw15) := all _
theorem convI (ch : Byte) (raw17 : BitVec 24) : Statement (.convI ch raw17) := all _
theorem convP (ch : Byte) (raws32 : BitVec 32) : Statement (.convP ch raws32) := all _
theorem convE (rawu32 : BitVec 32) : Statement (.convE rawu32) := all _

end Sys2Proof.Laws.EncodeShape
end

