-- ==== Sys2Proof/Laws/Stall.lean ====
section
/-! SUPPORT. The same sequence of actions with a platform that completes all of them and with one that completes only `k`
(R248). -/

namespace Sys2Proof.Machine

/-- The state with a platform that completes `k` more actions. -/
def State.withBudget (s : State) (k : Nat) : State := { s with STALL := some k }

theorem State.withBudget_didAll (s : State) (k : Nat) (evs : List Event) :
    (s.withBudget k).didAll evs = (s.didAll evs).withBudget (k - evs.length) := rfl

/-- A sequence that performs the same events with every platform, as far as the platform goes. -/
def Flow.Tracks {α : Type} (f : State → Flow α) : Prop :=
  ∀ s : State, s.STALL = none → ∃ a evs, f s = .on a (s.didAll evs) ∧
    ∀ k, f (s.withBudget k) =
      if evs.length ≤ k then .on a ((s.withBudget k).didAll evs) else .hung ((s.withBudget k).didAll (evs.take k))

theorem Flow.Tracks.pure {α : Type} (a : α) : Flow.Tracks (Flow.on a) := by
  intro s hs
  exact ⟨a, [], by simp, by simp⟩

theorem Flow.Tracks.bind {α β : Type} {f : State → Flow α} {k : α → State → Flow β} (hf : Flow.Tracks f)
    (hk : ∀ a, Flow.Tracks (k a)) : Flow.Tracks (fun s => (f s).andThen k) := by
  intro s hs
  obtain ⟨a, e₁, h₁, b₁⟩ := hf s hs
  obtain ⟨b, e₂, h₂, b₂⟩ := hk a (s.didAll e₁) (by simp [State.didAll, hs])
  refine ⟨b, e₁ ++ e₂, by simp [h₁, Flow.andThen, h₂, State.didAll_append], fun n => ?_⟩
  simp only [b₁, List.length_append]
  by_cases hn : e₁.length ≤ n
  · simp only [hn, if_true, Flow.andThen, State.withBudget_didAll, b₂]
    by_cases hm : e₂.length ≤ n - e₁.length
    · simp only [hm, if_true, show e₁.length + e₂.length ≤ n by omega, State.didAll_append, Nat.sub_sub, List.length_append]
    · simp only [hm, if_false, show ¬e₁.length + e₂.length ≤ n by omega]
      rw [List.take_append, List.take_of_length_le hn, State.didAll_append]
      simp [Nat.sub_sub]
  · simp only [hn, if_false, Flow.andThen, show ¬e₁.length + e₂.length ≤ n by omega]
    rw [List.take_append, show n - e₁.length = 0 by omega]
    simp

/-- One action. -/
theorem Flow.Tracks.one {α : Type} {f : State → Flow α} {a : State → α} {e : State → Event}
    (h : ∀ s, f s = if s.stalled then .hung s else .on (a s) (s.did (e s)))
    (ha : ∀ s k, a (s.withBudget k) = a s) (he : ∀ s k, e (s.withBudget k) = e s) : Flow.Tracks f := by
  intro s hs
  refine ⟨a s, [e s], by simp [h, State.stalled, hs, State.did_eq], fun k => ?_⟩
  simp only [h, ha, he]
  cases k with
  | zero => simp [State.stalled, State.withBudget]
  | succ k => simp [State.stalled, State.withBudget, State.did_eq]

theorem gpioCfg_tracks (pin : PinId) : Flow.Tracks (gpioCfg pin) := .one (gpioCfg_eq pin) (fun _ _ => rfl) (fun _ _ => rfl)
theorem gpioWr_tracks (pin : PinId) (lvl : Level) : Flow.Tracks (gpioWr pin lvl) :=
  .one (gpioWr_eq pin lvl) (fun _ _ => rfl) (fun _ _ => rfl)
theorem delayMs_tracks (n : Nat) : Flow.Tracks (delayMs n) := .one (delayMs_eq n) (fun _ _ => rfl) (fun _ _ => rfl)
theorem delayUs_tracks (n : Nat) : Flow.Tracks (delayUs n) := .one (delayUs_eq n) (fun _ _ => rfl) (fun _ _ => rfl)
theorem busBegin_tracks : Flow.Tracks busBegin := .one busBegin_eq (fun _ _ => rfl) (fun _ _ => rfl)
theorem txnBegin_tracks : Flow.Tracks txnBegin := .one txnBegin_eq (fun _ _ => rfl) (fun _ _ => rfl)
theorem txnEnd_tracks : Flow.Tracks txnEnd := .one txnEnd_eq (fun _ _ => rfl) (fun _ _ => rfl)
theorem xfer_tracks (b : Byte) : Flow.Tracks (xfer b) :=
  .one (a := fun s => icAnswer s b) (xfer_eq b) (fun _ _ => rfl) (fun _ _ => rfl)

theorem xfers_tracks (bytes : List Byte) : Flow.Tracks (xfers bytes) := by
  induction bytes with
  | nil => exact .pure []
  | cons b bs ih => exact (xfer_tracks b).bind fun r => ih.bind fun rs => .pure _

theorem Flow.Tracks.ofCfg {α β : Type} {g : State → β} {f : β → State → Flow α} (hg : ∀ s k, g (s.withBudget k) = g s)
    (hf : ∀ p, Flow.Tracks (f p)) : Flow.Tracks (fun s => f (g s) s) := by
  intro s hs
  obtain ⟨a, evs, h, hb⟩ := hf (g s) s hs
  exact ⟨a, evs, h, fun k => by simpa only [hg] using hb k⟩

theorem csWr_tracks (lvl : Level) : Flow.Tracks (fun s => gpioWr s.cfg.P_CS_PIN lvl s) :=
  .ofCfg (g := fun s => s.cfg.P_CS_PIN) (fun _ _ => rfl) fun pin => gpioWr_tracks pin lvl

theorem rstWr_tracks (lvl : Level) : Flow.Tracks (fun s => gpioWr s.cfg.P_RST_PIN lvl s) :=
  .ofCfg (g := fun s => s.cfg.P_RST_PIN) (fun _ _ => rfl) fun pin => gpioWr_tracks pin lvl

theorem txn_tracks (bytes : List Byte) : Flow.Tracks (txn bytes) :=
  txnBegin_tracks.bind fun _ => (csWr_tracks .LOW).bind fun _ => (xfers_tracks bytes).bind fun _ =>
    (csWr_tracks .HIGH).bind fun _ => txnEnd_tracks.bind fun _ => .pure _

theorem sendf_tracks (f : FrameBytes) : Flow.Tracks (sendf f) := (txn_tracks _).bind fun _ => .pure _

theorem onSyncPin_tracks {f : PinId → State → Flow Unit} (hf : ∀ pin, Flow.Tracks (f pin)) : Flow.Tracks (onSyncPin f) := by
  refine .ofCfg (g := fun s => s.cfg.P_SYNC_PIN)
    (f := fun p s => match p with | none => Flow.on () s | some pin => f pin s) (fun _ _ => rfl) fun p => ?_
  cases p with
  | none => exact .pure ()
  | some pin => exact hf pin

theorem syncToggle_tracks (pin : PinId) (n : Nat) : Flow.Tracks (syncToggle pin n) := by
  induction n with
  | zero => exact .pure ()
  | succ n ih =>
    refine (gpioWr_tracks pin .LOW).bind fun _ => (delayMs_tracks 2).bind fun _ => (gpioWr_tracks pin .HIGH).bind fun _ =>
      Flow.Tracks.bind (f := fun s => if n = 0 then Flow.on () s else delayMs 2 s) ?_ fun _ => ih
    by_cases hn : n = 0
    · simp only [hn, if_true]; exact .pure ()
    · simp only [hn, if_false]; exact delayMs_tracks 2

theorem bringup_tracks : Flow.Tracks bringup :=
  (Flow.Tracks.ofCfg (g := fun s => s.cfg.P_CS_PIN) (fun _ _ => rfl) gpioCfg_tracks).bind fun _ =>
    (Flow.Tracks.ofCfg (g := fun s => s.cfg.P_RST_PIN) (fun _ _ => rfl) gpioCfg_tracks).bind fun _ =>
    (onSyncPin_tracks gpioCfg_tracks).bind fun _ => (csWr_tracks .LOW).bind fun _ => (rstWr_tracks .LOW).bind fun _ =>
    (delayMs_tracks 35).bind fun _ => (rstWr_tracks .HIGH).bind fun _ => (delayMs_tracks 35).bind fun _ =>
    (csWr_tracks .HIGH).bind fun _ => (delayMs_tracks 2).bind fun _ =>
    (onSyncPin_tracks fun pin => syncToggle_tracks pin _).bind fun _ => (delayMs_tracks 2).bind fun _ =>
    (csWr_tracks .LOW).bind fun _ => (delayMs_tracks 5).bind fun _ => (csWr_tracks .HIGH).bind fun _ => busBegin_tracks

theorem latchSeq_tracks : Flow.Tracks latchSeq := by
  intro s hs
  have pulse : ∀ pin, Flow.Tracks fun s =>
      (gpioWr pin .LOW s).andThen fun _ s => (delayUs 4 s).andThen fun _ s => gpioWr pin .HIGH s := fun pin =>
    (gpioWr_tracks pin .LOW).bind fun _ => (delayUs_tracks 4).bind fun _ => gpioWr_tracks pin .HIGH
  have hc : ∀ k, (s.withBudget k).cfg = s.cfg := fun _ => rfl
  simp only [latchSeq, hc]
  cases s.cfg.P_LATCH_STRATEGY with
  | SW_BITS f => exact sendf_tracks f s hs
  | PIN =>
    cases s.cfg.P_SYNC_PIN with
    | none => exact Flow.Tracks.pure () s hs
    | some pin => exact pulse pin s hs

/-- The two transactions of a read, before `PB` is written (R123, R125). -/
theorem readPath_tracks (n : Nat) (a : Byte) :
    Flow.Tracks (fun s => (sendf (addressFrame a) s).andThen fun _ s => txn (List.replicate n P_FILLER) s) :=
  (sendf_tracks _).bind fun _ => txn_tracks _

end Sys2Proof.Machine
end

