-- ==== Sys2Proof/Laws/Values.lean ====
section
/-! SUPPORT. Operands and binary32 patterns: when an operand selects something, and what a pattern is worth. -/

namespace Sys2Proof.Machine

theorem chanOf_eq_none {ch : Byte} (h0 : ch ≠ 0) (h1 : ch ≠ 1) (h2 : ch ≠ 2) : chanOf ch = none := by
  rw [chanOf, if_neg h0, if_neg h1, if_neg h2]

theorem quantityOf_eq_none {qty : Byte} (h : 2 < qty.toNat) : quantityOf qty = none := by
  rw [quantityOf, if_neg (by rintro rfl; simp at h), if_neg (by rintro rfl; simp at h), if_neg (by rintro rfl; simp at h)]

theorem flagOf_eq_none {flag : Byte} (h : 1 < flag.toNat) : flagOf flag = none := by
  rw [flagOf, if_neg (by rintro rfl; simp at h), if_neg (by rintro rfl; simp at h)]

/-- An entry of a calibration row, by its channel byte and by its index (R25). -/
theorem CalEntry.get {r : CalRow} {ch : Byte} {k : NumVal} (h : CalEntry r ch k) :
    ∃ c, chanOf ch = some c ∧ r.get c = k := by
  rcases h with ⟨rfl, rfl⟩ | ⟨rfl, rfl⟩ | ⟨rfl, rfl⟩
  · exact ⟨.ch0, rfl, rfl⟩
  · exact ⟨.ch1, rfl, rfl⟩
  · exact ⟨.ch2, rfl, rfl⟩

/-! ## Fields of a pattern -/

theorem B32.expo_eq (x : Word32) : B32.expo x = x.toNat / 2 ^ 23 % 2 ^ 8 := by
  simp [B32.expo, Nat.shiftRight_eq_div_pow]

theorem B32.frac_eq (x : Word32) : B32.frac x = x.toNat % 2 ^ 23 := by
  simp [B32.frac]

theorem B32.sign_eq (x : Word32) : B32.sign x = decide (2 ^ 31 ≤ x.toNat) := by
  simp [B32.sign, BitVec.msb_eq_decide]

/-- The multipliers that `SET_CAL` accepts (R220), as numbers. -/
theorem positiveFinite_iff (x : Word32) : positiveFinite x = true ↔ 0 < x.toNat ∧ x.toNat < 0x7F800000 := by
  have := x.isLt
  simp only [positiveFinite, B32.isFinite, B32.isZero, B32.expo_eq, B32.frac_eq, B32.sign_eq, Bool.and_eq_true,
    Bool.not_eq_true', decide_eq_true_eq, decide_eq_false_iff_not]
  omega

/-- The sentinel is -1 of the selected domain (R198). -/
theorem sentinel_eq_minusOne (m : Numerics) : sentinel m = minusOne m := by
  cases m with
  | EXACT => simp [sentinel, toNum, minusOne]
  | BINARY32 =>
    have : B32.ofRat ((-1 : Int) : Rat) = 0xBF800000 := by decide +kernel
    simp only [sentinel, toNum, minusOne, this]

/-- The two readings of a finite pattern's value, as one fraction of integers and by its layout, agree (R72). -/
theorem B32.value_eq (x : Word32) : B32.value x = binary32Value x := by
  have hs : x.getLsbD 31 = B32.sign x := by simp [B32.sign, BitVec.msb_eq_getLsbD_last]
  have scale : ∀ e : ℕ, (2 : ℚ) ^ (e - 150) / (2 : ℚ) ^ (150 - e) = (2 : ℚ) ^ ((e : ℤ) - 150) := by
    intro e
    rcases le_total 150 e with h | h
    · rw [show 150 - e = 0 by omega, pow_zero, div_one, ← zpow_natCast]; exact congrArg (fun z : ℤ => (2 : ℚ) ^ z) (by omega)
    · rw [show e - 150 = 0 by omega, pow_zero, one_div, ← zpow_natCast, ← zpow_neg]; exact congrArg (fun z : ℤ => (2 : ℚ) ^ z) (by omega)
  have mag : ((B32.magNum x : ℕ) : ℚ) / ((B32.magDen x : ℕ) : ℚ) =
      if B32.expo x = 0 then (B32.frac x : ℚ) * (2 : ℚ) ^ (-149 : ℤ)
      else (2 ^ 23 + (B32.frac x : ℚ)) * (2 : ℚ) ^ ((B32.expo x : ℤ) - 150) := by
    unfold B32.magNum B32.magDen B32.significand
    push_cast
    rw [mul_div_assoc, scale]
    split
    · rename_i h
      rw [h]; norm_num
    · rename_i h
      rw [show max (B32.expo x) 1 = B32.expo x by omega]
      ring
  unfold B32.value binary32Value
  rw [Rat.mkRat_eq_div, hs]
  change _ = if B32.sign x = true then
      -(if B32.expo x = 0 then (B32.frac x : ℚ) * (2 : ℚ) ^ (-149 : ℤ)
        else (2 ^ 23 + (B32.frac x : ℚ)) * (2 : ℚ) ^ ((B32.expo x : ℤ) - 150))
    else
      (if B32.expo x = 0 then (B32.frac x : ℚ) * (2 : ℚ) ^ (-149 : ℤ)
        else (2 ^ 23 + (B32.frac x : ℚ)) * (2 : ℚ) ^ ((B32.expo x : ℤ) - 150))
  rw [← mag]
  split <;> push_cast <;> ring

end Sys2Proof.Machine
end

