-- ==== Sys2Proof/Tests/Slice0.lean ====
section
/-! SUPPORT. The model's own tests. Expected results are the spec's (`spec/95_test_vectors.md`, W and V numbers) or follow by hand
from the tables of R72 to R74; each test is one step. The last part gives, for each obligation with hypotheses, values that meet
them. -/

open Sys2Proof Sys2Proof.Machine

namespace Sys2Proof.Tests

/-! ## Helpers -/

/-- One field of the next state. -/
def field {α : Type} (f : State → α) : Outcome → Option α
  | .next t => some (f t)
  | .fault _ => none
  | .refused _ => none

/-- One step that runs the command of an opcode byte and the bytes after it. -/
def run (b : Byte) (rest : List Byte) (s : State) : Outcome := step (s.present ⟨b, rest⟩)

/-- The IC answers these bytes next. -/
def answering (s : State) (bytes : List Byte) : State := { s with IC := bytes }

/-- The state after `INIT` from the reset state of a configuration. -/
def readyWith (c : Config) : State :=
  match run 0x01 [] (State.resetWith c) with
  | .next t => t
  | .fault _ => State.resetWith c
  | .refused _ => State.resetWith c

def noSyncConfig : Config := { referenceConfig with P_SYNC_PIN := none }
def binary32Config : Config := { referenceConfig with P_NUMERICS := .BINARY32 }
def settledConfig : Config := { referenceConfig with P_ENERGY_CH_PATH := .SETTLED }
def swBitsConfig : Config := { referenceConfig with P_LATCH_STRATEGY := .SW_BITS ⟨0xA1, 0xB2, 0xC3, 0xD4⟩ }

/-- The reference machine after `INIT`, with a sync pin. -/
def ready : State := readyWith referenceConfig
def readyNoSync : State := readyWith noSyncConfig

def cs : PinId := referenceConfig.P_CS_PIN
def rst : PinId := referenceConfig.P_RST_PIN
def sync : PinId := ⟨2⟩
def tb : Event := .TB ⟨referenceBusMode, 12000000⟩

/-- The events added to the trace of `ready`. -/
def added (o : Outcome) : Option (List Event) := (field (fun t => t.TRACE.drop ready.TRACE.length) o)

/-! ## Decoding: words written out from R73 and R74 -/

theorem test_decode_init : decode [0x01] = .ok .init := by decide
theorem test_decode_send_frame : decode [0x02, 0xFF, 0x05, 0x34, 0x12] = .ok (.sendFrame 0xFF 0x05 0x34 0x12) := by decide
theorem test_decode_read_frame : decode [0x03, 0x48] = .ok (.readFrame 0x48) := by decide
theorem test_decode_read_frame_settled : decode [0x04, 0x84] = .ok (.readFrameSettled 0x84) := by decide
theorem test_decode_latch : decode [0x05] = .ok .latch := by decide
theorem test_decode_read_rms : decode [0x10, 0x02] = .ok (.readRms 0x02) := by decide
theorem test_decode_read_rms_v : decode [0x11, 0x03] = .ok (.readRmsV 0x03) := by decide
theorem test_decode_read_rms_i : decode [0x12, 0x02] = .ok (.readRmsI 0x02) := by decide
theorem test_decode_read_power : decode [0x13, 0x01] = .ok (.readPower 0x01) := by decide
theorem test_decode_read_energy : decode [0x14, 0x00] = .ok (.readEnergy 0x00) := by decide
theorem test_decode_addr_lookup : decode [0x15, 0x02, 0x01] = .ok (.addrLookup 0x02 0x01) := by decide
theorem test_decode_set_cal :
    decode [0x20, 0xCD, 0xCC, 0x8C, 0x3F, 0x00, 0x00, 0x40, 0x3F] = .ok (.setCal 0x3F8CCCCD 0x3F400000) := by decide
theorem test_decode_set_auto_latch : decode [0x21, 0x01] = .ok (.setAutoLatch 0x01) := by decide
theorem test_decode_set_crc : decode [0x22, 0xFF] = .ok (.setCrc 0xFF) := by decide
theorem test_decode_field_0_14 : decode [0x30, 0x34, 0x12, 0x56, 0x78] = .ok (.field014 0x34 0x12 0x56 0x78) := by decide
theorem test_decode_field_15_32 : decode [0x31, 0x00, 0x01, 0x02, 0x03] = .ok (.field1532 0x00 0x01 0x02 0x03) := by decide
theorem test_decode_field_0_28 : decode [0x32, 0x00, 0x00, 0x00, 0x80] = .ok (.field028 0x00 0x00 0x00 0x80) := by decide
theorem test_decode_field_u32 : decode [0x33, 0x78, 0x56, 0x34, 0x12] = .ok (.fieldU32 0x78 0x56 0x34 0x12) := by decide
theorem test_decode_conv_v : decode [0x40, 0x01, 0x34, 0x12] = .ok (.convV 0x01 0x1234) := by decide
theorem test_decode_conv_i : decode [0x41, 0x02, 0xFE, 0xFF, 0x01] = .ok (.convI 0x02 0x01FFFE) := by decide
theorem test_decode_conv_p : decode [0x42, 0x01, 0x01, 0x00, 0x00, 0x80] = .ok (.convP 0x01 0x80000001) := by decide
theorem test_decode_conv_e : decode [0x43, 0x40, 0x42, 0x0F, 0x00] = .ok (.convE 0x000F4240) := by decide

/-- V10 to V12: reserved opcodes, whatever follows. -/
theorem test_decode_reserved :
    decode [0x00] = .error .illegalOpcode ∧ decode [0x06] = .error .illegalOpcode ∧
    decode [0xFF, 0x01, 0x02] = .error .illegalOpcode := by decide

/-- V13, V14, V16: wrong lengths. -/
theorem test_decode_lengths :
    decode [0x01, 0x00] = .error .badLength ∧ decode [0x11] = .error .badLength ∧
    decode [0x20, 0x00, 0x00, 0x80, 0x3F, 0x00, 0x00, 0x80] = .error .badLength := by decide

/-- The table's numbering: bit 0 is the lowest bit of the opcode byte, operand bytes count on from it. -/
theorem test_decode_table_word :
    decodeTableWord 8 0x01 = some .init ∧ decodeTableWord 40 0x1234_05FF_02 = some (.sendFrame 0xFF 0x05 0x34 0x12) ∧
    decodeTableWord 72 0x3F40_0000_3FA0_0000_20 = some (.setCal 0x3FA00000 0x3F400000) ∧
    decodeTableWord 16 0x40 = some (.convV 0 0) ∧ decodeTableWord 8 0x06 = none := by decide

/-! ## WellFormed: an ill-formed term for each check of R72, and the legal value beside it -/

theorem test_wf_rms_channel :
    (Instr.readRms 0).wf = false ∧ (Instr.readRmsV 3).wf = false ∧ (Instr.readRmsI 0).wf = false ∧
    (Instr.readPower 255).wf = false ∧ (Instr.readRms 1).wf = true ∧ (Instr.readPower 2).wf = true := by decide
theorem test_wf_energy_channel : (Instr.readEnergy 3).wf = false ∧ (Instr.readEnergy 0).wf = true := by decide
theorem test_wf_lookup :
    (Instr.addrLookup 1 3).wf = false ∧ (Instr.addrLookup 0 0).wf = false ∧ (Instr.addrLookup 0 1).wf = false ∧
    (Instr.addrLookup 3 2).wf = false ∧ (Instr.addrLookup 0 2).wf = true := by decide
theorem test_wf_multiplier :
    (Instr.setCal 0 0x3F800000).wf = false ∧ (Instr.setCal 0x3F800000 0x80000000).wf = false ∧
    (Instr.setCal 0xBF800000 0x3F800000).wf = false ∧ (Instr.setCal 0x7FC00000 0x3F800000).wf = false ∧
    (Instr.setCal 0x3F800000 0x7F800000).wf = false ∧ (Instr.setCal 1 0x7F7FFFFF).wf = true := by decide
theorem test_wf_flag : (Instr.setAutoLatch 2).wf = false ∧ (Instr.setCrc 255).wf = false ∧ (Instr.setCrc 1).wf = true := by
  decide
theorem test_wf_raw :
    (Instr.convV 1 0x8000).wf = false ∧ (Instr.convI 1 0x20000).wf = false ∧ (Instr.convV 3 0).wf = false ∧
    (Instr.convI 3 0).wf = false ∧ (Instr.convP 9 0).wf = false ∧ (Instr.convV 0 0x7FFF).wf = true ∧
    (Instr.convI 2 0x1FFFF).wf = true := by decide

/-! ## Sequencer (V1, V2, V4) -/

theorem test_init_with_sync_pin :
    field State.TRACE (run 0x01 [] State.reset) = some
      [.CFG cs, .CFG rst, .CFG sync, .WR cs .LOW, .WR rst .LOW, .DMS 35, .WR rst .HIGH, .DMS 35, .WR cs .HIGH, .DMS 2,
       .WR sync .LOW, .DMS 2, .WR sync .HIGH, .DMS 2, .WR sync .LOW, .DMS 2, .WR sync .HIGH, .DMS 2, .WR sync .LOW, .DMS 2,
       .WR sync .HIGH, .DMS 2, .WR cs .LOW, .DMS 5, .WR cs .HIGH, .BEGIN] := by decide
theorem test_init_without_sync_pin :
    field State.TRACE (run 0x01 [] (State.resetWith noSyncConfig)) = some
      [.CFG cs, .CFG rst, .WR cs .LOW, .WR rst .LOW, .DMS 35, .WR rst .HIGH, .DMS 35, .WR cs .HIGH, .DMS 2, .DMS 2,
       .WR cs .LOW, .DMS 5, .WR cs .HIGH, .BEGIN] ∧
    field (fun t => (t.READY, t.RINT, t.STATUS, t.PIN)) (run 0x01 [] (State.resetWith noSyncConfig)) =
      some (true, some 1, some .OK, ⟨.out (some .HIGH), .out (some .HIGH), .Z⟩) := by decide

/-! ## Framer (V20, V21, V22, V24) -/

theorem test_send_frame :
    added (run 0x02 [0xFF, 0x05, 0x34, 0x12] (answering ready [9, 8, 7, 6])) = some
      [tb, .WR cs .LOW, .X 0xFF 9, .X 0x05 8, .X 0x34 7, .X 0x12 6, .WR cs .HIGH, .TE] := by decide
theorem test_send_frame_not_ready :
    field (fun t => (t.STATUS, t.TRACE)) (run 0x02 [0xFF, 0x05, 0x34, 0x12] State.reset) = some (some .NOT_READY, []) := by
  decide
theorem test_read_frame :
    added (run 0x03 [0x48] (answering ready [1, 2, 3, 4, 0x34, 0x12, 0, 0])) = some
      [tb, .WR cs .LOW, .X 0x48 1, .X 0xFF 2, .X 0xFF 3, .X 0xFF 4, .WR cs .HIGH, .TE,
       tb, .WR cs .LOW, .X 0xFF 0x34, .X 0xFF 0x12, .X 0xFF 0, .X 0xFF 0, .WR cs .HIGH, .TE] := by decide
theorem test_read_frame_payload :
    field State.PB (run 0x03 [0x48] (answering ready [1, 2, 3, 4, 0x34, 0x12, 0x56, 0x78])) =
      some (some ⟨0x34, 0x12, 0x56, 0x78⟩) := by decide
theorem test_read_frame_settled :
    field (fun t => (t.PB, t.TRACE.length - ready.TRACE.length)) (run 0x04 [0x84] (answering ready
      ([9, 9, 9, 9] ++ [0, 1, 2, 3, 4, 5, 6, 7, 8, 9, 10, 11, 0x78, 0x56, 0x34, 0x12]))) =
      some (some ⟨0x78, 0x56, 0x34, 0x12⟩, 28) := by decide

/-! ## Latch Controller (V30, V31, V35, V36) -/

theorem test_latch_pulse :
    added (run 0x05 [] { ready with AUTO_LATCH := true }) = some [.WR sync .LOW, .DUS 4, .WR sync .HIGH] ∧
    field State.STATUS (run 0x05 [] readyNoSync) = some (some .LATCH_UNAVAILABLE) := by decide
theorem test_latch_software :
    field (fun t => t.TRACE.drop 26) (run 0x05 [] (answering (readyWith swBitsConfig) [0, 0, 0, 0])) = some
      [tb, .WR cs .LOW, .X 0xA1 0, .X 0xB2 0, .X 0xC3 0, .X 0xD4 0, .WR cs .HIGH, .TE] := by decide

/-! ## Measurement reads (V33, V34, V37, V121, V123 to V127, W7) -/

theorem test_read_rms :
    field (fun t => (t.RVAL0, t.RVAL1, t.TRACE.length - ready.TRACE.length)) (run 0x10 [0x01]
      (answering ready [0, 0, 0, 0, 0x34, 0x12, 0x02, 0x03])) =
      some (some (.exact (mkRat 16535564504 100000000)), some (.exact (mkRat 165011 12000)), 19) := by decide +kernel
theorem test_read_rms_leaves_results :
    field (fun t => (t.STATUS, t.RVAL0, t.RVAL1, t.TRACE)) (run 0x10 [0x03]
      { State.reset with RVAL0 := some (.exact 5), RVAL1 := some (.exact 6) }) =
      some (some .INVALID_CHANNEL, some (.exact 5), some (.exact 6), []) := by decide +kernel
theorem test_read_rms_v :
    field (fun t => (t.RVAL0, t.RVAL1)) (run 0x11 [0x01]
      (answering { readyNoSync with AUTO_LATCH := true } [0, 0, 0, 0, 0x34, 0x12, 0, 0])) =
      some (some (.exact (mkRat 16535564504 100000000)), none) := by decide +kernel
theorem test_read_rms_v_sentinel :
    field (fun t => (t.STATUS, t.RVAL0, t.TRACE)) (run 0x11 [0x03] State.reset) =
      some (some .INVALID_CHANNEL, some (.exact (-1)), []) := by decide +kernel
theorem test_read_rms_i :
    field (fun t => (t.RVAL0, (t.TRACE.drop 26).take 6)) (run 0x12 [0x02]
      (answering ready [0, 0, 0, 0, 0x00, 0x00, 0x0C, 0x00])) =
      some (some (.exact (mkRat 2143 10000)),
        [.WR sync .LOW, .DUS 4, .WR sync .HIGH, tb, .WR cs .LOW, .X 0x4A 0]) := by decide +kernel
theorem test_read_rms_i_no_latch :
    field (fun t => (t.STATUS, t.RVAL0, t.TRACE.length - readyNoSync.TRACE.length)) (run 0x12 [0x01] readyNoSync) =
      some (some .LATCH_UNAVAILABLE, none, 0) := by decide +kernel
theorem test_read_power :
    field State.RVAL0 (run 0x13 [0x01] (answering { ready with AUTO_LATCH := true } [0, 0, 0, 0, 0xFF, 0xFF, 0xFF, 0xFF])) =
      some (some (.exact (mkRat (-1217) 10000000))) := by decide +kernel
theorem test_read_power_not_ready :
    field (fun t => (t.STATUS, t.RVAL0)) (run 0x13 [0x01] State.reset) = some (some .NOT_READY, none) ∧
    field (fun t => (t.STATUS, t.RVAL0)) (run 0x13 [0x00] State.reset) =
      some (some .INVALID_CHANNEL, some (.exact (-1))) := by decide +kernel
theorem test_read_energy_total :
    field (fun t => (t.RVAL0, t.TRACE.length - ready.TRACE.length)) (run 0x14 [0x00] (answering ready
      ([0, 0, 0, 0] ++ [1, 1, 1, 1, 1, 1, 1, 1, 1, 1, 1, 1, 0x78, 0x56, 0x34, 0x12]))) =
      some (some (.exact (mkRat 270651505879152 100000000000000)), 28) := by decide +kernel
theorem test_read_energy_channel :
    field (fun t => (t.RVAL0, (t.TRACE.drop 26).length, (t.TRACE.drop 26).take 3)) (run 0x14 [0x01]
      (answering ready [0, 0, 0, 0, 0x00, 0xE1, 0xF5, 0x05])) =
      some (some (.exact (mkRat 886162 1000000)), 16, [tb, .WR cs .LOW, .X 0x54 0]) ∧
    field (fun t => (t.TRACE.drop 26).length) (run 0x14 [0x02]
      (answering (readyWith settledConfig) (List.replicate 20 0))) = some 28 := by decide +kernel

/-! ## Address map (V110 to V117) -/

theorem test_addr_lookup :
    field State.RINT (run 0x15 [0x01, 0x00] State.reset) = some (some 0x48) ∧
    field State.RINT (run 0x15 [0x02, 0x01] State.reset) = some (some 0x74) ∧
    field State.RINT (run 0x15 [0x00, 0x02] State.reset) = some (some 0x84) := by decide
theorem test_addr_lookup_errors :
    field (fun t => (t.STATUS, t.RINT)) (run 0x15 [0x00, 0x00] State.reset) = some (some .INVALID_CHANNEL, none) ∧
    field State.STATUS (run 0x15 [0x03, 0x02] State.reset) = some (some .INVALID_CHANNEL) ∧
    field State.STATUS (run 0x15 [0x07, 0x03] State.reset) = some (some .ILLEGAL_OPERAND) := by decide

/-! ## Handle setters (V140 to V152) -/

theorem test_set_cal :
    field (fun t => (t.CAL_V, t.CAL_I.c2)) (run 0x20 [0x00, 0x00, 0xA0, 0x3F, 0x00, 0x00, 0x40, 0x3F] State.reset) =
      some (⟨.exact (mkRat 5 4), .exact (mkRat 5 4), .exact (mkRat 5 4)⟩, .exact (mkRat 3 4)) := by decide +kernel
theorem test_set_cal_rejects :
    field (fun t => (t.STATUS, t.CAL_V.c0)) (run 0x20 [0x00, 0x00, 0xC0, 0x7F, 0x00, 0x00, 0x80, 0x3F] State.reset) =
      some (some .INVALID_CAL, .exact 1) ∧
    field State.STATUS (run 0x20 [0x00, 0x00, 0x80, 0x3F, 0x00, 0x00, 0x80, 0x7F] State.reset) =
      some (some .INVALID_CAL) := by decide +kernel
theorem test_set_auto_latch :
    field State.AUTO_LATCH (run 0x21 [0x01] State.reset) = some true ∧
    field State.AUTO_LATCH (run 0x21 [0x00] { State.reset with AUTO_LATCH := true }) = some false := by decide
theorem test_set_auto_latch_rejects :
    field (fun t => (t.STATUS, t.AUTO_LATCH)) (run 0x21 [0x02] State.reset) = some (some .ILLEGAL_OPERAND, false) := by decide
theorem test_set_crc :
    field State.CRC_EN (run 0x22 [0x01] State.reset) = some true ∧
    field State.STATUS (run 0x22 [0xFF] State.reset) = some (some .ILLEGAL_OPERAND) := by decide

/-! ## Bit-Field Decoder (W1 to W3, V41 to V56) -/

theorem test_field_0_14 :
    field State.RINT (run 0x30 [0x34, 0x12, 0xAA, 0xBB] State.reset) = some (some 4660) ∧
    field State.RINT (run 0x30 [0x00, 0x80, 0x00, 0x00] State.reset) = some (some 0) := by decide
theorem test_field_15_32 :
    field State.RINT (run 0x31 [0xAA, 0x01, 0x02, 0x03] State.reset) = some (some 1540) ∧
    field State.RINT (run 0x31 [0x00, 0x80, 0x00, 0x00] State.reset) = some (some 1) := by decide
theorem test_field_0_28 :
    field State.RINT (run 0x32 [0x00, 0x00, 0x00, 0x80] State.reset) = some (some (-2147483648)) ∧
    field State.RINT (run 0x32 [0x00, 0x00, 0x00, 0x08] State.reset) = some (some 134217728) := by decide
theorem test_field_u32 :
    field State.RINT (run 0x33 [0x78, 0x56, 0x34, 0x12] State.reset) = some (some 305419896) ∧
    field State.RINT (run 0x33 [0xFF, 0xFF, 0xFF, 0xFF] State.reset) = some (some 4294967295) := by decide

/-! ## Conversion Engine, `EXACT` (V61, V64, V65, V72, V74, V77, V85) and `BINARY32` (V93 to V102) -/

theorem test_conv_v :
    field State.RVAL0 (run 0x40 [0x01, 0x34, 0x12] State.reset) = some (some (.exact (mkRat 16535564504 100000000))) ∧
    field (fun t => (t.STATUS, t.RVAL0)) (run 0x40 [0x01, 0x00, 0x80] State.reset) = some (some .ILLEGAL_OPERAND, none) ∧
    field State.RVAL0 (run 0x40 [0x03, 0xFF, 0x7F] State.reset) = some (some (.exact (-1))) := by decide +kernel
theorem test_conv_v_binary32 :
    field State.RVAL0 (run 0x40 [0x01, 0x34, 0x12] (State.resetWith binary32Config)) =
      some (some (.binary32 0x43255B0C)) ∧
    field State.RVAL0 (run 0x40 [0x01, 0xFF, 0x7F]
      { State.resetWith binary32Config with CAL_V := CalRow.uniform (.binary32 0x00000001) }) =
      some (some (.binary32 0x0000048B)) := by decide +kernel
theorem test_conv_i :
    field State.RVAL0 (run 0x41 [0x02, 0xFF, 0xFF, 0x01] State.reset) = some (some (.exact (mkRat 280885153 240000))) ∧
    field (fun t => (t.STATUS, t.RVAL0)) (run 0x41 [0x05, 0x00, 0x00, 0x02] State.reset) =
      some (some .ILLEGAL_OPERAND, none) := by decide +kernel
theorem test_conv_i_binary32 :
    field State.RVAL0 (run 0x41 [0x01, 0x04, 0x06, 0x00] (State.resetWith binary32Config)) =
      some (some (.binary32 0x415C03C1)) := by decide +kernel
theorem test_conv_p :
    field State.RVAL0 (run 0x42 [0x01, 0x00, 0x00, 0x00, 0x80] State.reset) =
      some (some (.exact (mkRat (-2613487599616) 10000000))) ∧
    field State.RVAL0 (run 0x42 [0x09, 0x00, 0x00, 0x00, 0x00] State.reset) = some (some (.exact (-1))) := by decide +kernel
theorem test_conv_p_binary32 :
    field State.RVAL0 (run 0x42 [0x01, 0x00, 0x00, 0x00, 0x80] (State.resetWith binary32Config)) =
      some (some (.binary32 0xC87F3931)) ∧
    field State.RVAL0 (run 0x42 [0x01, 0x01, 0x00, 0x00, 0x01] (State.resetWith binary32Config)) =
      some (some (.binary32 0x44FF3931)) := by decide +kernel
theorem test_conv_e :
    field State.RVAL0 (run 0x43 [0xFF, 0xFF, 0xFF, 0xFF] State.reset) =
      some (some (.exact (mkRat 380603680807179 10000000000000))) := by decide +kernel
theorem test_conv_e_binary32 :
    field State.RVAL0 (run 0x43 [0xFF, 0xFF, 0xFF, 0xFF] (State.resetWith binary32Config)) =
      some (some (.binary32 0x42183DD1)) := by decide +kernel

/-! ## The port, errors and a stalled platform -/

/-- V15: the length is checked before the channel, and nothing but `STATUS` is written. -/
theorem test_bad_length_first :
    field (fun t => (t.STATUS, t.RVAL0)) (run 0x11 [0x03, 0x00] State.reset) = some (some .BAD_LENGTH, none) := by decide

/-- A fetched word runs as the very next step. -/
theorem test_with_fetch_word : field State.RINT (step (State.reset.withFetchWord 8 0x01)) = some (some 1) := by decide

/-- R248: with two actions to complete, `INIT` has appended two events and stays `BUSY`, and there is no further step. -/
theorem test_stalled :
    field (fun t => (t.TRACE, t.BUSY, t.STATUS, t.SEQ)) (run 0x01 [] { State.reset with STALL := some 2 }) =
      some ([.CFG cs, .CFG rst], true, none, some 2) := by decide
theorem test_busy_is_stuck : step { State.reset with BUSY := true, PORT := [⟨0x01, []⟩] } = .fault .stuck := rfl
theorem test_idle_waits : step State.reset = .next State.reset := rfl

/-- R34: an unwritten register faults, a written one is read. -/
theorem test_host_read :
    hostRead .RINT State.reset = .fault (.unwrittenRead .RINT) ∧ hostRead .RINT ready = .next (.int 1) ∧
    hostRead .STATUS ready = .next (.status 0x00) ∧ hostRead (.PB 3) ready = .fault (.unwrittenRead (.PB 3)) :=
  ⟨rfl, rfl, rfl, rfl⟩

/-! ## Witnesses: for each obligation with hypotheses, values that meet them all, clause by clause -/

/-- An idle engine with one command at its port. -/
def withCommand (b : Byte) (rest : List Byte) : State := State.reset.present ⟨b, rest⟩

/-- `EncodeOfDecodeIsTheString`. -/
theorem witness_encode_of_decode : decode [0x15, 0x01, 0x02] = .ok (.addrLookup 0x01 0x02) := by decide

/-- `PortFollowsTheDecodingProcedure`: an unassigned opcode at either end of the byte range, a length one too short and one too
long, and a right length. -/
theorem witness_port :
    (withCommand 0x00 []).BUSY = false ∧ (withCommand 0x00 []).PORT = ⟨0x00, []⟩ :: [] ∧
    (0x00 : Byte) ∉ opcodeMap.map Prod.fst ∧ (0xFF : Byte) ∉ opcodeMap.map Prod.fst ∧
    ((0x15, 3) ∈ opcodeMap ∧ [(0x01 : Byte)].length + 1 ≠ 3) ∧ ((0x01, 1) ∈ opcodeMap ∧ [(0x00 : Byte)].length + 1 ≠ 1) ∧
    ((0x15, 3) ∈ opcodeMap ∧ [(0x01 : Byte), 0x02].length + 1 = 3) := by decide

/-- `StepRunsTheDecodedCommand`. -/
theorem witness_step_runs :
    (withCommand 0x30 [1, 2, 3, 4]).BUSY = false ∧
    (withCommand 0x30 [1, 2, 3, 4]).PORT = ⟨0x30, [1, 2, 3, 4]⟩ :: [] ∧
    decode (Command.bytes ⟨0x30, [1, 2, 3, 4]⟩) = .ok (.field014 1 2 3 4) := by decide

/-- `BusyEngineIsStuckAndIdleEngineWaits`. -/
theorem witness_busy : { State.reset with BUSY := true }.BUSY = true ∧ State.reset.BUSY = false ∧ State.reset.PORT = [] := by
  decide

/-- `ResetLeavesTheListedValues`: a configuration of each number domain. -/
theorem witness_reset : referenceConfig.P_NUMERICS = .EXACT ∧ binary32Config.P_NUMERICS = .BINARY32 := by decide

/-- `HostReadsFaultExactlyWhenUnwritten`: every register unwritten, and every register written. -/
theorem witness_host_reads :
    (State.reset.STATUS = none ∧ State.reset.RVAL0 = none ∧ State.reset.RVAL1 = none ∧ State.reset.RINT = none ∧
      State.reset.PB = none) ∧
    (∃ s : State, s.STATUS = some .LATCH_UNAVAILABLE ∧ s.RVAL0 = some (.exact 5) ∧ s.RVAL1 = some (.exact 6) ∧
      s.RINT = some (-1) ∧ s.PB = some ⟨1, 2, 3, 4⟩) :=
  ⟨⟨rfl, rfl, rfl, rfl, rfl⟩,
    { State.reset with
      STATUS := some .LATCH_UNAVAILABLE, RVAL0 := some (.exact 5), RVAL1 := some (.exact 6), RINT := some (-1)
      PB := some ⟨1, 2, 3, 4⟩ }, rfl, rfl, rfl, rfl, rfl⟩

/-- `InitPerformsBringup`, `RepeatedInitOnlyGrowsTheTrace`. -/
theorem witness_init : State.reset.STALL = none ∧ ∃ t, exec .init State.reset = .next t := ⟨rfl, _, rfl⟩

/-- The states that drive the bus: `SendFrameIsOneTransaction`, `ReadFrameCapturesTheSecondTransaction`,
`ReadFrameSettledKeepsTheLastFour`. -/
theorem witness_bus_usable : BusUsable ready := ⟨by decide, by decide⟩

/-- `LatchPulsesOrPushes`: both strategies. -/
theorem witness_latch :
    (BusUsable ready ∧ LatchAvailable ready.cfg) ∧
    (BusUsable (readyWith swBitsConfig) ∧ LatchAvailable (readyWith swBitsConfig).cfg) := by
  unfold BusUsable LatchAvailable; decide

/-- `ReadsLatchExactlyOnce`: `AUTO_LATCH` false and true, and a read that ends with an error. -/
theorem witness_reads_latch :
    (BusUsable ready ∧ Instr.readPower 2 ∈ latchingReads 2 ∧ ready.cfg.P_LATCH_STRATEGY = .PIN ∧
      ready.cfg.P_SYNC_PIN = some sync ∧ sync ≠ ready.cfg.P_CS_PIN ∧ ready.AUTO_LATCH = false) ∧
    (BusUsable { ready with AUTO_LATCH := true } ∧ { ready with AUTO_LATCH := true }.AUTO_LATCH = true) ∧
    (Instr.readRms 0 ∈ latchingReads 0 ∧ State.reset.STALL = none ∧
      exec (.readRms 0) State.reset = .next (State.reset.complete .INVALID_CHANNEL) ∧
      (State.reset.complete .INVALID_CHANNEL).STATUS ≠ some .OK) := by
  refine ⟨by unfold BusUsable; decide, by unfold BusUsable; decide, by decide, rfl, rfl, by decide⟩

/-- `ConvVScalesByTheVoltageWeight`, `ConvIScalesByTheCurrentWeight`, `ConvPScalesByThePowerWeight`: the least illegal operand, and
the least illegal channel with the greatest legal operand. -/
theorem witness_conversion_errors :
    0x7FFF < (0x8000#16).toNat ∧ 0x1FFFF < (0x20000#24).toNat ∧
    ((0x7FFF#16).toNat ≤ 0x7FFF ∧ (0x1FFFF#24).toNat ≤ 0x1FFFF ∧ 2 < (3 : Byte).toNat) := by decide

/-- `ConvVScalesByTheVoltageWeight`, `ConvIScalesByTheCurrentWeight`, `ConvPScalesByThePowerWeight`: the greatest legal operand,
each channel, each number domain. -/
theorem witness_conversions :
    (0x7FFF#16).toNat ≤ 0x7FFF ∧ (0x1FFFF#24).toNat ≤ 0x1FFFF ∧
    (CalEntry State.reset.CAL_V 0 (.exact 1) ∧ State.reset.cfg.P_NUMERICS = .EXACT) ∧
    CalEntry State.reset.CAL_V 1 (.exact 1) ∧ CalEntry State.reset.CAL_I 2 (.exact 1) ∧
    (CalEntry (State.resetWith binary32Config).CAL_V 2 (.binary32 0x3F800000) ∧
      CalEntry (State.resetWith binary32Config).CAL_I 2 (.binary32 0x3F800000) ∧
      (State.resetWith binary32Config).cfg.P_NUMERICS = .BINARY32) := by
  unfold CalEntry; decide +kernel

/-- `ExactConversionsObeyTheLaws`: positive multipliers and the values at multiplier 1. -/
theorem witness_exact_laws :
    (0 : ℚ) < 5 / 4 ∧ (0 : ℚ) < 3 / 4 ∧ (∃ x, convV .EXACT (.exact 1) 4660 = .exact x) ∧
    (∃ x, convI .EXACT (.exact 1) 4660 = .exact x) ∧ (∃ x, convP .EXACT (.exact 1) (.exact 1) (-3) = .exact x) :=
  ⟨by norm_num, by norm_num, ⟨_, rfl⟩, ⟨_, rfl⟩, ⟨_, rfl⟩⟩

/-- `PowerHasTheSignOfRaw`: a negative, a zero and a positive operand. -/
theorem witness_power_sign :
    (0 : ℚ) < 5 / 4 ∧ (0 : ℚ) < 3 / 4 ∧ (∃ x, convP .EXACT (.exact (5 / 4)) (.exact (3 / 4)) (-1) = .exact x) ∧
    (∃ x, convP .EXACT (.exact (5 / 4)) (.exact (3 / 4)) 0 = .exact x) ∧
    (∃ x, convP .EXACT (.exact (5 / 4)) (.exact (3 / 4)) 1 = .exact x) :=
  ⟨by norm_num, by norm_num, ⟨_, rfl⟩, ⟨_, rfl⟩, ⟨_, rfl⟩⟩

/-- `RoundingIsToNearestTiesToEven`: 2^24 + 1 lies halfway between the patterns 0x4B800000, its rounding, and 0x4B800001. -/
theorem witness_rounding_tie :
    B32.isFinite (B32.ofRat 16777217) = true ∧ B32.isFinite 0x4B800001 = true ∧
    |binary32Value (B32.ofRat 16777217) - 16777217| = |binary32Value 0x4B800001 - 16777217| ∧
    binary32Value 0x4B800001 ≠ binary32Value (B32.ofRat 16777217) := by
  have h : B32.ofRat 16777217 = 0x4B800000 := by decide +kernel
  have v0 : binary32Value 0x4B800000 = 16777216 := by rw [← B32.value_eq]; decide +kernel
  have v1 : binary32Value 0x4B800001 = 16777218 := by rw [← B32.value_eq]; decide +kernel
  rw [h, v0, v1]
  refine ⟨by decide, by decide, by norm_num, by norm_num⟩

/-- `RoundingOverflowsToInfinity`: both clauses at their boundary. -/
theorem witness_rounding_overflow :
    (2 : ℚ) ^ 128 - 2 ^ 103 ≤ 2 ^ 128 - 2 ^ 103 ∧ -((2 : ℚ) ^ 128 - 2 ^ 103) ≤ -(2 ^ 128 - 2 ^ 103) := ⟨le_refl _, le_refl _⟩

/-- `RoundingKeepsBinary32Values`: the least and the greatest finite patterns. -/
theorem witness_rounding_keeps :
    (B32.isFinite 0x00000001 = true ∧ (0x00000001 : BitVec 32) ≠ 0x80000000) ∧
    (B32.isFinite 0xFF7FFFFF = true ∧ (0xFF7FFFFF : BitVec 32) ≠ 0x80000000) := by decide

/-- `Binary32OperationsRoundOnce`. -/
theorem witness_operations :
    B32.isFinite 0x3F800000 = true ∧ B32.isFinite 0x41C00000 = true ∧ binary32Value 0x3F800000 ≠ 0 ∧
    binary32Value 0x41C00000 ≠ 0 := by
  refine ⟨by decide, by decide, ?_, ?_⟩ <;> rw [← B32.value_eq] <;> decide +kernel

/-- `AddrLookupAnswersTheTable`: a row of the table, the least illegal quantity, and a legal quantity with no row. -/
theorem witness_addr_lookup :
    (0, 2, 0x84) ∈ addressTable State.reset.cfg.P_ADDR_MAP ∧ 2 < (3 : Byte).toNat ∧
    ((1 : Byte).toNat ≤ 2 ∧ ∀ a, ((0 : Byte), (1 : Byte), a) ∉ addressTable State.reset.cfg.P_ADDR_MAP) ∧
    ((2 : Byte).toNat ≤ 2 ∧ ∀ a, ((3 : Byte), (2 : Byte), a) ∉ addressTable State.reset.cfg.P_ADDR_MAP) := by
  refine ⟨by decide, by decide, ⟨by decide, fun a => ?_⟩, by decide, fun a => ?_⟩ <;> simp [addressTable]

/-- `ReadRmsReadsBothFieldsOfOneFrame`, `ReadRmsVReadsTheVoltage`, `ReadRmsIReadsTheCurrent`, `ReadPowerReadsTheSignedPower`: both
channels, and a latch that is available or not needed. -/
theorem witness_reads :
    BusUsable ready ∧ (ready.AUTO_LATCH = true ∨ LatchAvailable ready.cfg) ∧
    ((1 : Byte) = 1 ∧ (0x48 : Byte) = ready.cfg.P_ADDR_MAP.A_RMS1) ∧
    ((2 : Byte) = 2 ∧ (0x74 : Byte) = ready.cfg.P_ADDR_MAP.A_PWR2) ∧
    CalEntry ready.CAL_V 1 (.exact 1) ∧ CalEntry ready.CAL_I 1 (.exact 1) ∧
    (BusUsable { readyNoSync with AUTO_LATCH := true } ∧ { readyNoSync with AUTO_LATCH := true }.AUTO_LATCH = true) := by
  unfold BusUsable LatchAvailable CalEntry; decide +kernel

/-- `ReadEnergyTakesItsPath`: the total, and a channel on each path. -/
theorem witness_read_energy :
    BusUsable ready ∧ ((0 : Byte) = 0 ∧ (0x84 : Byte) = ready.cfg.P_ADDR_MAP.A_ENT ∧ 12 = 12) ∧
    (((1 : Byte) = 1 ∧ (0x54 : Byte) = ready.cfg.P_ADDR_MAP.A_EN1) ∧
      0 = if ready.cfg.P_ENERGY_CH_PATH = .SETTLED then 12 else 0) ∧
    (BusUsable (readyWith settledConfig) ∧ (0x6C : Byte) = (readyWith settledConfig).cfg.P_ADDR_MAP.A_EN2 ∧
      12 = if (readyWith settledConfig).cfg.P_ENERGY_CH_PATH = .SETTLED then 12 else 0) := by
  unfold BusUsable; decide

/-- `ZeroBusReadsZero`: exactly 24 zero answers. -/
theorem witness_zero_bus :
    ∃ s : State, BusUsable s ∧ CalInv s ∧ (s.AUTO_LATCH = true ∨ LatchAvailable s.cfg) ∧ s.IC = List.replicate 24 0x00 ∧
      Instr.readEnergy 0 ∈ latchingReads 1 ++ latchingReads 2 ++ [Instr.readEnergy 0, .readEnergy 1, .readEnergy 2] := by
  refine ⟨answering ready (List.replicate 24 0x00), by unfold BusUsable; decide, ⟨?_, ?_, rfl, rfl, rfl, rfl⟩,
    .inr (by unfold LatchAvailable; decide), rfl, by decide⟩
  · show (0 : ℚ) < 1; norm_num
  · show (0 : ℚ) < 1; norm_num

/-- `NoCommandReadsAnEarlierPayload`, `LineFrequencyAndTimeUnitAreInert`, `OnlyTheListedCommandsWrite`: a command that reaches a next
state. -/
theorem witness_next : ∃ t, exec (.readFrame 0x48) ready = .next t := ⟨_, rfl⟩

/-- `EnergyIgnoresCalibration`: both kinds of command. -/
theorem witness_energy :
    (∃ ch, Instr.readEnergy 2 = .readEnergy ch) ∧ (∃ t, exec (.readEnergy 2) ready = .next t) ∧
    (∃ raw, Instr.convE 7 = .convE raw) ∧ (∃ t, exec (.convE 7) State.reset = .next t) :=
  ⟨⟨2, rfl⟩, ⟨_, rfl⟩, ⟨7, rfl⟩, ⟨_, rfl⟩⟩

/-- `SetCalAcceptsPositiveFinite`: the least and the greatest accepted patterns, and the nearest rejected ones. -/
theorem witness_set_cal :
    ((0 < (0x00000001#32).toNat ∧ (0x00000001#32).toNat < 0x7F800000) ∧
      (0 < (0x7F7FFFFF#32).toNat ∧ (0x7F7FFFFF#32).toNat < 0x7F800000)) ∧
    ¬((0 < (0x00000000#32).toNat ∧ (0x00000000#32).toNat < 0x7F800000) ∧
      (0 < (0x3F800000#32).toNat ∧ (0x3F800000#32).toNat < 0x7F800000)) ∧
    ¬((0 < (0x3F800000#32).toNat ∧ (0x3F800000#32).toNat < 0x7F800000) ∧
      (0 < (0x7F800000#32).toNat ∧ (0x7F800000#32).toNat < 0x7F800000)) := by decide

/-- `FlagSettersWriteTheirFlag`: both legal bytes, and the first and last illegal ones. -/
theorem witness_flags :
    ((0x00 : Byte) = 0x00 ∨ (0x00 : Byte) = 0x01) ∧ ((0x01 : Byte) = 0x00 ∨ (0x01 : Byte) = 0x01) ∧
    2 ≤ (0x02 : Byte).toNat ∧ 2 ≤ (0xFF : Byte).toNat := by decide

/-- `CrcFlagIsInert`. -/
theorem witness_crc : (Instr.readFrame 0x48).op ≠ .SET_CRC ∧ ∃ t, exec (.readFrame 0x48) ready = .next t := ⟨by decide, _, rfl⟩

/-- `ErrorsArePrecise`, `StatusFollowsThePriority`, `LegalOperandsDrawNoOperandError`: an error with the sentinel and one
without. -/
theorem witness_errors :
    State.reset.STALL = none ∧
    (∃ t, exec (.readPower 3) State.reset = .next t ∧ t.STATUS = some .INVALID_CHANNEL ∧
      leavesSentinel (.readPower 3) = true) ∧
    (∃ t, exec (.addrLookup 3 1) State.reset = .next t ∧ t.STATUS = some .INVALID_CHANNEL ∧
      leavesSentinel (.addrLookup 3 1) = false) :=
  ⟨rfl, ⟨_, rfl, rfl, by decide⟩, ⟨_, rfl, rfl, by decide⟩⟩

/-- `ErrorsArePrecise`, its second clause: an unassigned opcode and a wrong length at the port of an idle engine. -/
theorem witness_undecodable :
    ((withCommand 0x06 []).BUSY = false ∧ (withCommand 0x06 []).PORT = ⟨0x06, []⟩ :: [] ∧
      decode (Command.bytes ⟨0x06, []⟩) = .error .illegalOpcode) ∧
    ((withCommand 0x11 []).BUSY = false ∧ (withCommand 0x11 []).PORT = ⟨0x11, []⟩ :: [] ∧
      decode (Command.bytes ⟨0x11, []⟩) = .error .badLength) := by decide

/-- `InvalidChannelTouchesNoInterface`: channel 0, which energy accepts, and the least channel that nothing accepts. -/
theorem witness_invalid_channel :
    ((0 : Byte).toNat ≠ 1 ∧ (0 : Byte).toNat ≠ 2) ∧ ((3 : Byte).toNat ≠ 1 ∧ (3 : Byte).toNat ≠ 2 ∧ (3 : Byte).toNat ≠ 0) ∧
    Instr.readPower 3 ∈ [Instr.readRmsV 3, .readRmsI 3, .readPower 3] := by decide

/-- `BusCommandsNeedBringupAndALatch`: before bring-up, and after it with no latch. -/
theorem witness_bus_commands :
    (needsReady (.readEnergy 0) = true ∧ (Instr.readEnergy 0).wf = true ∧ State.reset.READY = false) ∧
    (needsReady .latch = true ∧ Instr.latch.wf = true ∧ readyNoSync.READY = true ∧
      readyNoSync.cfg.P_LATCH_STRATEGY = .PIN ∧ readyNoSync.cfg.P_SYNC_PIN = none ∧
      needsLatchNow .latch readyNoSync = true) ∧
    needsLatchNow (.readRms 1) readyNoSync = true := by decide

/-- `StepsNeverUndo`: a step that runs a command on a state with `READY` and `BUS_BEGUN` true. -/
theorem witness_steps :
    ready.READY = true ∧ ready.BUS_BEGUN = true ∧ ∃ t, step (ready.present ⟨0x05, []⟩) = .next t := ⟨by decide, by decide, _, rfl⟩

/-- `StalledPlatformCutsTheCommandShort`: a latch of three actions, with just enough and with one too few. -/
theorem witness_stalled :
    ∃ (s t : State) (evs : List Event), s.STALL = none ∧ s.BUSY = true ∧ exec .latch s = .next t ∧
      t.TRACE = s.TRACE ++ evs ∧ evs.length ≤ 3 ∧ 2 < evs.length :=
  ⟨ready.accept [], _, [.WR sync .LOW, .DUS 4, .WR sync .HIGH], rfl, rfl, rfl, rfl, by decide, by decide⟩

/-- The invariants, each with a step to a next state: `StepKeepsIdleInv`, `StepKeepsCalInv`, `StepKeepsInterfaceInv`,
`StepKeepsTxnInv`, `StepKeepsBringupInv`, `StepKeepsRintInv`, `StepKeepsRvalInv`. -/
theorem witness_invariants :
    ∃ s : State, IdleInv s ∧ CalInv s ∧ InterfaceInv s ∧ TxnInv s ∧ BringupInv s ∧ RintInv s ∧ RvalInv s ∧
      ∃ t, step s = .next t := by
  refine ⟨withCommand 0x01 [], ⟨rfl, fun _ => rfl⟩, ⟨?_, ?_, rfl, rfl, rfl, rfl⟩, ⟨rfl, rfl⟩,
    ⟨.outside, rfl, by decide⟩, ⟨by decide, fun _ _ => rfl, by decide⟩, fun z h => ?_, ⟨fun v h => ?_, fun v h => ?_⟩, _, rfl⟩
  · show (0 : ℚ) < 1; norm_num
  · show (0 : ℚ) < 1; norm_num
  · cases h
  · cases h
  · cases h

end Sys2Proof.Tests
end

/-! ## Commands and steps, once for every invariant -/

namespace Sys2Proof.Machine

/-- What an invariant owes to the commands: `Q` holds when one begins and `P` when it is over. The fields are the ways a
command goes on (`exec_next`). -/
structure CommandsLead (Q P : State → Prop) : Prop where
  completes : ∀ u c, Q u → P (u.complete c)
  sentinel : ∀ u : State, Q u → Q { u with RVAL0 := some (sentinel u.cfg.P_NUMERICS) }
  writes : ∀ i u v, Q u → PureWrite i u v → Q v
  runs : ∀ i p u evs, Q u → BusEvents i u p evs → Q (busWrite i p (u.didAll evs))
  hangs : ∀ i p u evs rest, Q u → BusEvents i u p (evs ++ rest) → P (u.didAll evs)

variable {Q P : State → Prop} {s t : State}

theorem CommandsLead.exec (k : CommandsLead Q P) {i : Instr} (hq : Q s) (h : exec i s = .next t) : P t := by
  rcases exec_next h with ⟨c, _, _, rfl⟩ | ⟨_, rfl⟩ | ⟨u, hu, rfl⟩ | ⟨p, evs, hb, _, _, rfl⟩ | ⟨p, evs, rest, hb, _, _, rfl, _⟩
  · exact k.completes _ _ hq
  · exact k.completes _ _ (k.sentinel _ hq)
  · exact k.completes _ _ (k.writes _ _ _ hq hu)
  · exact k.completes _ _ (k.runs _ _ _ _ hq hb)
  · exact k.hangs _ _ _ _ _ hq hb

/-- A step waits, or accepts a command and then rejects or runs it (R21, R84). -/
theorem CommandsLead.step (k : CommandsLead Q P) (waits : s.BUSY = false → s.PORT = [] → P s)
    (accepts : ∀ c later, s.BUSY = false → s.PORT = c :: later → Q (s.accept later)) (h : step s = .next t) : P t := by
  obtain ⟨hb, ⟨hp, rfl⟩ | ⟨c, later, hp, ⟨e, _, rfl⟩ | ⟨i, _, hx⟩⟩⟩ := step_cases h
  · exact waits hb hp
  · exact k.completes _ _ (accepts c later hb hp)
  · exact k.exec (accepts c later hb hp) hx

/-! ## What the event lists of commands are made of -/

/-- The complete event list of a command is bring-up, or a row of transactions of 4 or 16 transfers and pulses of the sync pin
(R101, R120, R140). -/
theorem BusEvents.of_groups {E : List Event → Prop} {i : Instr} {p : Payload} {evs : List Event} (h : BusEvents i s p evs)
    (bringup : i = .init → E (bringupEvents s.cfg))
    (nil : E [])
    (append : ∀ a b, E a → E b → E (a ++ b))
    (txn : ∀ sent recv, recv.length = sent.length → sent.length = 4 ∨ sent.length = 16 → E (txnEvents s.cfg sent recv))
    (pulse : ∀ pin, s.cfg.P_SYNC_PIN = some pin → E [.WR pin .LOW, .DUS 4, .WR pin .HIGH]) : E evs := by
  have latch : ∀ l, IsLatch s.cfg l → E l := by
    intro l hl
    unfold IsLatch at hl
    split at hl
    · exact hl.elim
    · next pin _ hpin => exact hl ▸ pulse pin hpin
    · obtain ⟨r, hr, rfl⟩ := hl
      exact txn _ _ hr (.inl rfl)
  have readLatch : ∀ l, ReadLatch s l → E l := by
    intro l hl
    unfold ReadLatch at hl
    split at hl
    · exact hl ▸ nil
    · exact latch l hl
  have noLatch : ∀ l, l = [] → E l := fun l hl => hl ▸ nil
  have read : ∀ {lat a n l}, (∀ l, lat l → E l) → n = 0 ∨ n = 12 → IsRead s.cfg lat a n p l → E l := by
    rintro lat a n _ hlat hn ⟨l, _, hl, rfl, ra, dropped, hra, rfl, rfl⟩
    refine append _ _ (hlat l hl) (append _ _ (txn _ _ hra (.inl rfl)) (txn _ _ ?_ ?_))
    · simp [Payload.bytes]
    · simp only [List.length_replicate]; omega
  have measure : ∀ {q ch lat n}, (∀ l, lat l → E l) → (∀ c, n c = 0 ∨ n c = 12) → IsMeasure s q ch lat n p evs → E evs :=
    fun hlat hn ⟨_, c, _, _, _, hr⟩ => read hlat (hn c) hr
  cases i <;> simp only [BusEvents] at h
  case init => exact h ▸ bringup rfl
  case sendFrame => obtain ⟨_, r, hr, rfl⟩ := h; exact txn _ _ hr (.inl rfl)
  case readFrame => exact read noLatch (.inl rfl) h.2
  case readFrameSettled => exact read noLatch (.inr rfl) h.2
  case latch => exact latch _ h.2
  case readEnergy => exact measure noLatch (fun c => by unfold energyDropped; split <;> simp) h
  all_goals exact measure readLatch (fun _ => .inl rfl) h

/-! ## R32, R36: between commands there is no transaction and no step position -/

theorem replayInTxn_txnEvents (x : Bool) (c : Config) (sent recv : List Byte) :
    replayInTxn x (txnEvents c sent recv) = false := by
  rw [txnEvents, replayInTxn_append]; rfl

theorem replayInTxn_bringup (s : State) : replayInTxn s.IN_TXN (bringupEvents s.cfg) = s.IN_TXN :=
  congrArg State.IN_TXN (afterEvents_bringup s)

/-- A command that completes leaves no transaction open (R120). -/
theorem BusEvents.inTxn {i : Instr} {p : Payload} {evs : List Event} (h : BusEvents i s p evs) (hs : s.IN_TXN = false) :
    replayInTxn false evs = false :=
  h.of_groups (E := fun evs => replayInTxn false evs = false)
    (fun _ => hs ▸ replayInTxn_bringup s)
    rfl
    (fun a b ha hb => by rw [replayInTxn_append, ha, hb])
    (fun sent recv _ _ => replayInTxn_txnEvents _ _ sent recv)
    (fun _ _ => rfl)

/-- A command has been accepted and no transaction is open. -/
def Running (s : State) : Prop := s.BUSY = true ∧ s.SEQ.isSome = true ∧ s.IN_TXN = false

theorem running_leads_to_idleInv : CommandsLead Running IdleInv where
  completes := fun _ _ ⟨_, _, htxn⟩ => ⟨rfl, fun _ => htxn⟩
  sentinel := fun _ h => h
  writes := by
    rintro i u v ⟨hbusy, hseq, htxn⟩ hw
    obtain ⟨_, ebusy, _, _, _, etxn, _, eseq, _⟩ := hw.frame
    exact ⟨ebusy.trans hbusy, eseq ▸ hseq, etxn.trans htxn⟩
  runs := by
    rintro i p u evs ⟨hbusy, hseq, htxn⟩ hb
    exact ⟨by simpa using hbusy, by simpa using hseq, by simpa [htxn] using hb.inTxn htxn⟩
  hangs := by
    rintro i p u evs rest ⟨hbusy, hseq, _⟩ _
    exact ⟨by simpa [hbusy] using hseq, fun h => by simp [hbusy] at h⟩

/-- Settles O52: an accepted command runs with a step position and outside any transaction, and each of its event lists closes
what it opens. -/
theorem stepKeepsIdleInv : Obligations.StepKeepsIdleInv := fun _ _ hs h =>
  running_leads_to_idleInv.step (fun _ _ => hs) (fun _ _ hb _ => ⟨rfl, rfl, hs.2 hb⟩) h

/-! ## R25, R224: the calibration table -/

/-- What `SET_CAL` checks of a pattern, by its fields (R220). -/
theorem positiveFinite_fields {x : Word32} (h : positiveFinite x = true) :
    B32.isFinite x = true ∧ B32.isZero x = false ∧ B32.sign x = false := by
  simpa [positiveFinite, and_assoc] using h

theorem B32.significand_pos {x : Word32} (h : positiveFinite x = true) : 0 < B32.significand x := by
  have hpos := (positiveFinite_iff x).1 h
  unfold B32.significand
  rw [B32.expo_eq, B32.frac_eq]
  split <;> omega

theorem B32.value_pos {x : Word32} (h : positiveFinite x = true) : 0 < B32.value x := by
  obtain ⟨_, _, hsign⟩ := positiveFinite_fields h
  have hnum : 0 < B32.magNum x := Nat.mul_pos (B32.significand_pos h) (by positivity)
  have hden : 0 < B32.magDen x := by unfold B32.magDen; positivity
  rw [B32.value, hsign, Rat.mkRat_eq_div]
  simp only [Bool.false_eq_true, if_false]
  exact div_pos (by exact_mod_cast hnum) (by exact_mod_cast hden)

/-- What `SET_CAL` accepts is a good multiplier in either domain (R220). -/
theorem goodMultiplier_num32 (m : Numerics) {x : Word32} (h : positiveFinite x = true) : GoodMultiplier m (num32 m x) := by
  cases m with
  | EXACT => exact B32.value_pos h
  | BINARY32 => exact (positiveFinite_iff x).1 h

/-- The invariant speaks of the configuration and the table alone. -/
theorem CalInv.of_eq (hs : CalInv s) (hcfg : t.cfg = s.cfg) (hv : t.CAL_V = s.CAL_V) (hi : t.CAL_I = s.CAL_I) : CalInv t := by
  unfold CalInv
  rw [hcfg, hv, hi]
  exact hs

theorem calInv_kept_by_commands : CommandsLead CalInv CalInv where
  completes := fun _ _ h => h
  sentinel := fun _ h => h
  writes := by
    intro i u v hu hw
    by_cases hi : i.op = .SET_CAL
    · cases i <;> cases hi
      obtain ⟨hkv, hki, rfl⟩ := hw
      exact ⟨goodMultiplier_num32 _ hkv, goodMultiplier_num32 _ hki, rfl, rfl, rfl, rfl⟩
    · obtain ⟨ecfg, _, _, _, _, _, _, _, _, _, _, _, _, _, _, ecal, _⟩ := hw.frame
      exact hu.of_eq ecfg (ecal hi).1 (ecal hi).2
  runs := fun _ _ _ _ hu _ => hu.of_eq (by simp) (by simp) (by simp)
  hangs := fun _ _ _ _ _ hu _ => hu.of_eq rfl rfl rfl

/-- Settles O53: `SET_CAL` writes one accepted multiplier into each row, and nothing else writes the table. -/
theorem stepKeepsCalInv : Obligations.StepKeepsCalInv := fun _ _ hs h =>
  calInv_kept_by_commands.step (fun _ _ => hs) (fun _ _ _ _ => hs) h

/-! ## R30, R31, R33: the pins and the bus flag are what the trace says -/

theorem InterfaceInv.of_eq (hs : InterfaceInv s) (hcfg : t.cfg = s.cfg) (hpin : t.PIN = s.PIN)
    (hbus : t.BUS_BEGUN = s.BUS_BEGUN) (htrace : t.TRACE = s.TRACE) : InterfaceInv t := by
  unfold InterfaceInv
  rw [hcfg, hpin, hbus, htrace]
  exact hs

/-- Any events at all keep the invariant: what they do to the pins and the flag is read off them. -/
theorem InterfaceInv.didAll (hs : InterfaceInv s) (evs : List Event) : InterfaceInv (s.didAll evs) := by
  obtain ⟨hpin, hbus⟩ := hs
  constructor
  · simp [replayPins_append, ← hpin]
  · simp [begins_append, ← hbus]

theorem interfaceInv_kept_by_commands : CommandsLead InterfaceInv InterfaceInv where
  completes := fun _ _ h => h
  sentinel := fun _ h => h
  writes := by
    intro i u v hu hw
    obtain ⟨ecfg, _, _, epin, ebus, _, etrace, _⟩ := hw.frame
    exact hu.of_eq ecfg epin ebus etrace
  runs := fun i p u evs hu _ => (hu.didAll evs).of_eq (by simp) (by simp) (by simp) (by simp)
  hangs := fun _ _ _ evs _ hu _ => hu.didAll evs

/-- Settles O54: every event list moves the pins and the flag as its replay does, and replay goes along appended traces. -/
theorem stepKeepsInterfaceInv : Obligations.StepKeepsInterfaceInv := fun _ _ hs h =>
  interfaceInv_kept_by_commands.step (fun _ _ => hs) (fun _ _ _ _ => hs) h

end Sys2Proof.Machine

namespace Sys2Proof.Machine

variable {s t : State}

/-! ## R22, R31, R271: bring-up and the pins -/

/-- A pin that was last driven high ends high after an event list (R30). -/
def EndsHigh (evs : List Event) : Prop :=
  ∀ pin, replayPin pin (.out (some .HIGH)) evs = .out (some .HIGH)

theorem replayPin_append (pin : PinId) (x : PinState) (a b : List Event) :
    replayPin pin x (a ++ b) = replayPin pin (replayPin pin x a) b := by
  simp [replayPin]

theorem replayPin_transfers (pin : PinId) (x : PinState) (sent recv : List Byte) :
    replayPin pin x (List.zipWith Event.X sent recv) = x := by
  induction sent generalizing recv with
  | nil => rfl
  | cons b sent ih => cases recv with
    | nil => rfl
    | cons r recv => exact ih recv

/-- A transaction drives chip-select low and then high again (R120). -/
theorem endsHigh_txnEvents (c : Config) (sent recv : List Byte) : EndsHigh (txnEvents c sent recv) := by
  intro pin
  rw [txnEvents, replayPin_append, replayPin_append, replayPin_transfers]
  by_cases h : c.P_CS_PIN = pin <;> simp [replayPin, pinEvent, h]

/-- The pulse of the sync pin ends high (R140). -/
theorem endsHigh_pulse (pin : PinId) : EndsHigh [.WR pin .LOW, .DUS 4, .WR pin .HIGH] := by
  intro q
  by_cases h : pin = q <;> simp [replayPin, pinEvent, h]

/-- The event list of every command but `INIT` leaves high what was high. -/
theorem BusEvents.endsHigh {i : Instr} {p : Payload} {evs : List Event} (h : BusEvents i s p evs) (hi : i ≠ .init) :
    EndsHigh evs :=
  h.of_groups
    (fun h => absurd h hi)
    (fun _ => rfl)
    (fun a b ha hb pin => by rw [replayPin_append, ha, hb])
    (fun sent recv _ _ => endsHigh_txnEvents _ sent recv)
    (fun pin _ => endsHigh_pulse pin)

/-- Chip-select, reset and, if present, the sync pin were last driven high (R30). -/
def PinsHigh (c : Config) (p : Pins) : Prop :=
  p.CS = .out (some .HIGH) ∧ p.RST = .out (some .HIGH) ∧ (c.P_SYNC_PIN.isSome = true → p.SYNC = .out (some .HIGH))

theorem PinsHigh.replay {c : Config} {p : Pins} {evs : List Event} (hp : PinsHigh c p) (h : EndsHigh evs) :
    PinsHigh c (replayPins c p evs) := by
  obtain ⟨hcs, hrst, hsync⟩ := hp
  refine ⟨by simp only [replayPins, hcs, h c.P_CS_PIN], by simp only [replayPins, hrst, h c.P_RST_PIN], fun hc => ?_⟩
  obtain ⟨pin, hpin⟩ := Option.isSome_iff_exists.1 hc
  simp only [replayPins, hpin, hsync hc, h pin]

/-- Bring-up leaves every pin high, whatever it was (R101, R107). -/
theorem pinsHigh_bringup (s : State) : PinsHigh s.cfg (replayPins s.cfg s.PIN (bringupEvents s.cfg)) := by
  have hpins := congrArg State.PIN (afterEvents_bringup s)
  rw [State.afterEvents_PIN] at hpins
  rw [hpins]
  exact ⟨rfl, rfl, fun hc => if_pos hc⟩

theorem begins_bringup (c : Config) : begins (bringupEvents c) = true := by
  simp [begins, bringupEvents]

/-- `BringupInv` of a state in which the engine may be busy: what holds of an idle engine held when the command began. -/
def BringupReady (s : State) : Prop :=
  (s.READY = true → s.BUS_BEGUN = true) ∧ (s.READY = false → s.TRACE = []) ∧ (s.READY = true → PinsHigh s.cfg s.PIN)

theorem BringupReady.of_eq (hs : BringupReady s) (hcfg : t.cfg = s.cfg) (hready : t.READY = s.READY) (hpin : t.PIN = s.PIN)
    (hbus : t.BUS_BEGUN = s.BUS_BEGUN) (htrace : t.TRACE = s.TRACE) : BringupReady t := by
  unfold BringupReady
  rw [hcfg, hready, hpin, hbus, htrace]
  exact hs

theorem bringupReady_init (p : Payload) (u : State) :
    BringupReady (busWrite .init p (u.didAll (bringupEvents u.cfg))) := by
  refine ⟨fun _ => by simp [begins_bringup], fun h => ?_, fun _ => ?_⟩
  · simp [busWrite_READY, Instr.op] at h
  · simpa using pinsHigh_bringup u

/-- Any other command with interface actions runs on a ready engine and leaves the pins high. -/
theorem BringupReady.run {i : Instr} {p : Payload} {evs : List Event} (hs : BringupReady s) (h : BusEvents i s p evs)
    (hi : i ≠ .init) (hready : s.READY = true) : BringupReady (busWrite i p (s.didAll evs)) := by
  obtain ⟨hbus, _, hpins⟩ := hs
  refine ⟨fun _ => by simp [hbus hready], fun hr => ?_, fun _ => ?_⟩
  · simp [busWrite_READY, hready] at hr
  · simpa using (hpins hready).replay (h.endsHigh hi)

theorem eq_init_of_op {i : Instr} (h : i.op = .INIT) : i = .init := by
  cases i with
  | init => rfl
  | _ => cases h

/-- A command has been accepted by an engine that keeps the invariant. -/
def BringupRunning (s : State) : Prop := s.BUSY = true ∧ BringupReady s

theorem bringupRunning_leads_to_bringupInv : CommandsLead BringupRunning BringupInv where
  completes := fun _ _ ⟨_, hbus, htrace, hpins⟩ => ⟨hbus, fun _ => htrace, fun _ => hpins⟩
  sentinel := fun _ h => h
  writes := by
    rintro i u v ⟨hbusy, hu⟩ hw
    obtain ⟨ecfg, ebusy, eready, epin, ebus, _, etrace, _⟩ := hw.frame
    exact ⟨ebusy.trans hbusy, hu.of_eq ecfg eready epin ebus etrace⟩
  runs := by
    rintro i p u evs ⟨hbusy, hu⟩ hb
    refine ⟨by simpa using hbusy, ?_⟩
    by_cases hi : i = .init
    · subst hi
      obtain rfl : evs = bringupEvents u.cfg := hb
      exact bringupReady_init p u
    · obtain hop | ⟨hready, _⟩ := hb.op
      · exact absurd (eq_init_of_op hop) hi
      · exact hu.run hb hi hready
  hangs := by
    rintro i p u evs rest ⟨hbusy, hbus, _⟩ _
    refine ⟨fun hr => ?_, fun hidle => ?_, fun hidle => ?_⟩
    · simp [hbus hr]
    · simp [hbusy] at hidle
    · simp [hbusy] at hidle

/-- Settles O56: bring-up begins the bus and ends with every pin high, and what runs after it ends with its pins high. -/
theorem stepKeepsBringupInv : Obligations.StepKeepsBringupInv := fun _ _ hs h =>
  have ⟨hbus, htrace, hpins⟩ := hs
  bringupRunning_leads_to_bringupInv.step (fun _ _ => hs) (fun _ _ hb _ => ⟨rfl, hbus, htrace hb, hpins hb⟩) h

/-! ## R28: the range of `RINT` -/

/-- The range of R28. -/
def RintRange (z : Int) : Prop := -2 ^ 31 ≤ z ∧ z ≤ 2 ^ 32 - 1

theorem rintRange_natCast {n : Nat} (h : n < 2 ^ 32) : RintRange n := by
  constructor <;> omega

/-- A byte moved up by at most 24 bits is below 2^32. -/
theorem byte_shiftLeft_lt (b : Byte) {k : Nat} (hk : k ≤ 24) : b.toNat <<< k < 2 ^ 32 :=
  (Nat.shiftLeft_lt b.isLt).trans_le (Nat.pow_le_pow_right (by omega) (by omega))

theorem byte_lt (b : Byte) : b.toNat < 2 ^ 32 := b.isLt.trans (by norm_num)

theorem field_0_14_lt (p : Payload) : field_0_14 p < 2 ^ 32 := by
  have hand : p.b1.toNat &&& 0x7F < 2 ^ 8 := Nat.and_lt_two_pow _ (by norm_num)
  exact Nat.or_lt_two_pow ((Nat.shiftLeft_lt hand).trans (by norm_num)) (byte_lt _)

theorem field_15_32_lt (p : Payload) : field_15_32 p < 2 ^ 32 :=
  (Nat.shiftRight_le _ _).trans_lt <| Nat.or_lt_two_pow
    (Nat.or_lt_two_pow (byte_shiftLeft_lt _ (by omega)) (byte_shiftLeft_lt _ (by omega))) (byte_lt _)

theorem field_u32_lt (p : Payload) : field_u32 p < 2 ^ 32 :=
  Nat.or_lt_two_pow (Nat.or_lt_two_pow
    (Nat.or_lt_two_pow (byte_shiftLeft_lt _ (by omega)) (byte_shiftLeft_lt _ (by omega)))
    (byte_shiftLeft_lt _ (by omega))) (byte_lt _)

theorem rintRange_sext32 {v : Nat} (h : v < 2 ^ 32) : RintRange (sext32 v) := by
  unfold sext32
  split
  · next hbit =>
    have := Nat.ge_two_pow_of_testBit hbit
    constructor <;> omega
  · exact rintRange_natCast h

/-- Whatever a command without interface actions leaves in `RINT` was there or is in the range. -/
theorem PureWrite.rint {i : Instr} {u v : State} (hw : PureWrite i u v) :
    v.RINT = u.RINT ∨ ∃ z, v.RINT = some z ∧ RintRange z := by
  by_cases hi : i.op ∈ [Op.ADDR_LOOKUP, .FIELD_0_14, .FIELD_15_32, .FIELD_0_28, .FIELD_U32]
  · right
    cases i <;> simp [Instr.op] at hi
    case addrLookup => obtain ⟨_, a, _, _, rfl⟩ := hw; exact ⟨_, rfl, rintRange_natCast (byte_lt a)⟩
    case field014 => obtain rfl := hw; exact ⟨_, rfl, rintRange_natCast (field_0_14_lt _)⟩
    case field1532 => obtain rfl := hw; exact ⟨_, rfl, rintRange_natCast (field_15_32_lt _)⟩
    case field028 => obtain rfl := hw; exact ⟨_, rfl, rintRange_sext32 (field_u32_lt _)⟩
    case fieldU32 => obtain rfl := hw; exact ⟨_, rfl, rintRange_natCast (field_u32_lt _)⟩
  · obtain ⟨_, _, _, _, _, _, _, _, _, _, _, _, _, _, _, _, _, erint⟩ := hw.frame
    exact .inl (erint hi)

theorem RintInv.of_eq (hs : RintInv s) (h : t.RINT = s.RINT) : RintInv t := fun z hz => hs z (h ▸ hz)

theorem RintInv.of_some {z : Int} (h : s.RINT = some z) (hz : RintRange z) : RintInv s := fun _ hz' =>
  Option.some.inj (h.symm.trans hz') ▸ hz

theorem rintInv_kept_by_commands : CommandsLead RintInv RintInv where
  completes := fun _ _ h => h
  sentinel := fun _ h => h
  writes := by
    intro i u v hu hw
    obtain h | ⟨z, h, hz⟩ := hw.rint
    · exact hu.of_eq h
    · exact .of_some h hz
  runs := by
    intro i p u evs hu _
    by_cases hi : i.op = .INIT
    · exact .of_some (z := 1) (by simp [busWrite_RINT, hi]) (by constructor <;> norm_num)
    · exact hu.of_eq (by simp [busWrite_RINT, hi])
  hangs := fun _ _ _ _ _ hu _ => hu.of_eq rfl

/-- Settles O57: addresses, fields and the 1 of `INIT` all lie in the range of R28. -/
theorem stepKeepsRintInv : Obligations.StepKeepsRintInv := fun _ _ hs h =>
  rintInv_kept_by_commands.step (fun _ _ => hs) (fun _ _ _ _ => hs) h

end Sys2Proof.Machine

namespace Sys2Proof.Machine

variable {s t : State}

/-! ## R27, R12, I6: no result is a NaN -/

/-- A sign and a magnitude of at most infinity's are no NaN. -/
theorem B32.isNaN_pack (neg : Bool) {mag : Nat} (h : mag ≤ 0x7F800000) : B32.isNaN (B32.pack neg mag) = false := by
  have hmod : (B32.pack neg mag).toNat % 2 ^ 31 = mag := by
    cases neg <;> simp [B32.pack] <;> omega
  simp only [B32.isNaN, B32.expo_eq, B32.frac_eq, decide_eq_false_iff_not]
  omega

theorem B32.roundMag_le (n d : Nat) : B32.roundMag n d ≤ 0x7F800000 := by
  unfold B32.roundMag
  split
  · omega
  · exact Nat.min_le_right _ _

theorem B32.isNaN_ofRat (q : Rat) : B32.isNaN (B32.ofRat q) = false := B32.isNaN_pack _ (B32.roundMag_le _ _)

theorem B32.isNaN_infinity (neg : Bool) : B32.isNaN (B32.infinity neg) = false := B32.isNaN_pack _ le_rfl

/-- A positive finite pattern is no NaN, no infinity and no zero. -/
theorem B32.classify_positive {b : Word32} (h : positiveFinite b = true) :
    B32.isNaN b = false ∧ B32.isInf b = false ∧ B32.isZero b = false := by
  obtain ⟨hfin, hzero, _⟩ := positiveFinite_fields h
  have hexpo : B32.expo b ≠ 255 := of_decide_eq_true hfin
  exact ⟨by simp [B32.isNaN, hexpo], by simp [B32.isInf, hexpo], hzero⟩

theorem B32.isZero_of_isInf {a : Word32} (h : B32.isInf a = true) : B32.isZero a = false := by
  obtain ⟨hexpo, _⟩ := of_decide_eq_true h
  simp [B32.isZero, hexpo]

theorem B32.isNaN_mul {a b : Word32} (ha : B32.isNaN a = false) (hb : positiveFinite b = true) :
    B32.isNaN (B32.mul a b) = false := by
  obtain ⟨hnan, hinf, hzero⟩ := B32.classify_positive hb
  cases hai : B32.isInf a with
  | true =>
    have haz : B32.isZero a = false := B32.isZero_of_isInf hai
    simp [B32.mul, ha, hnan, hai, haz, hzero, B32.isNaN_infinity]
  | false => simp [B32.mul, ha, hnan, hai, hinf, B32.isNaN_pack _ (B32.roundMag_le _ _)]

theorem B32.isNaN_div {a b : Word32} (ha : B32.isNaN a = false) (hb : positiveFinite b = true) :
    B32.isNaN (B32.div a b) = false := by
  obtain ⟨hnan, hinf, hzero⟩ := B32.classify_positive hb
  cases hai : B32.isInf a with
  | true => simp [B32.div, ha, hnan, hai, hinf, B32.isNaN_infinity]
  | false => simp [B32.div, ha, hnan, hai, hinf, hzero, B32.isNaN_pack _ (B32.roundMag_le _ _)]

theorem inDomain_toNum (m : Numerics) (z : Int) : InDomain m (toNum m z) := by
  cases m with
  | EXACT => trivial
  | BINARY32 => exact B32.isNaN_ofRat z

variable {m : Numerics} {v k : NumVal}

/-! What a value of each domain is. -/

theorem InDomain.exact (h : InDomain .EXACT v) : ∃ q, v = .exact q := by
  cases v with
  | exact q => exact ⟨q, rfl⟩
  | binary32 b => exact h.elim

theorem InDomain.binary32 (h : InDomain .BINARY32 v) : ∃ b, v = .binary32 b ∧ B32.isNaN b = false := by
  cases v with
  | exact q => exact h.elim
  | binary32 b => exact ⟨b, rfl, h⟩

theorem GoodMultiplier.exact (h : GoodMultiplier .EXACT k) : ∃ q, k = .exact q ∧ 0 < q := by
  cases k with
  | exact q => exact ⟨q, rfl, h⟩
  | binary32 b => exact h.elim

theorem GoodMultiplier.binary32 (h : GoodMultiplier .BINARY32 k) : ∃ b, k = .binary32 b ∧ positiveFinite b = true := by
  cases k with
  | exact q => exact h.elim
  | binary32 b => exact ⟨b, rfl, (positiveFinite_iff b).2 h⟩

/-- Multiplying by a good multiplier stays in the domain (R171, I6): an infinity meets no zero. -/
theorem InDomain.mul (hv : InDomain m v) (hk : GoodMultiplier m k) : InDomain m (numMul v k) := by
  cases m with
  | EXACT =>
    obtain ⟨x, rfl⟩ := hv.exact
    obtain ⟨y, rfl, _⟩ := hk.exact
    trivial
  | BINARY32 =>
    obtain ⟨a, rfl, ha⟩ := hv.binary32
    obtain ⟨b, rfl, hb⟩ := hk.binary32
    exact B32.isNaN_mul ha hb

/-- Dividing by a positive finite number stays in the domain. -/
theorem InDomain.div (hv : InDomain m v) (hk : GoodMultiplier m k) : InDomain m (numDiv v k) := by
  cases m with
  | EXACT =>
    obtain ⟨x, rfl⟩ := hv.exact
    obtain ⟨y, rfl, _⟩ := hk.exact
    trivial
  | BINARY32 =>
    obtain ⟨a, rfl, ha⟩ := hv.binary32
    obtain ⟨b, rfl, hb⟩ := hk.binary32
    exact B32.isNaN_div ha hb

/-! The weights of R170 are positive finite numbers of either domain. -/

theorem goodMultiplier_lit (m : Numerics) {q : ℚ} (hq : 0 < q) (hb : positiveFinite (B32.ofRat q) = true) :
    GoodMultiplier m (lit m q) := by
  cases m with
  | EXACT => exact hq
  | BINARY32 => exact (positiveFinite_iff _).1 hb

theorem goodMultiplier_KV (m : Numerics) : GoodMultiplier m (lit m KV) :=
  goodMultiplier_lit m (by decide) (by decide +kernel)

theorem goodMultiplier_KI (m : Numerics) : GoodMultiplier m (lit m KI) :=
  goodMultiplier_lit m (by decide) (by decide +kernel)

theorem goodMultiplier_KP (m : Numerics) : GoodMultiplier m (lit m KP) :=
  goodMultiplier_lit m (by decide) (by decide +kernel)

theorem goodMultiplier_KE (m : Numerics) : GoodMultiplier m (lit m KE) :=
  goodMultiplier_lit m (by decide) (by decide +kernel)

theorem goodMultiplier_KI_DIV (m : Numerics) : GoodMultiplier m (toNum m KI_DIV) := by
  have h := goodMultiplier_lit m (q := (KI_DIV : ℚ)) (by decide) (by decide +kernel)
  cases m <;> exact h

/-! The conversions of R172 to R175, with good multipliers. -/

theorem inDomain_convV (hk : GoodMultiplier m k) (raw : Int) : InDomain m (convV m k raw) :=
  ((inDomain_toNum m raw).mul (goodMultiplier_KV m)).mul hk

theorem inDomain_convI (hk : GoodMultiplier m k) (raw : Int) : InDomain m (convI m k raw) :=
  (((inDomain_toNum m raw).div (goodMultiplier_KI_DIV m)).mul (goodMultiplier_KI m)).mul hk

theorem inDomain_convP {kv ki : NumVal} (hkv : GoodMultiplier m kv) (hki : GoodMultiplier m ki) (raw : Int) :
    InDomain m (convP m kv ki raw) :=
  (((inDomain_toNum m raw).mul (goodMultiplier_KP m)).mul hkv).mul hki

theorem inDomain_convE (m : Numerics) (raw : Int) : InDomain m (convE m raw) :=
  (inDomain_toNum m raw).mul (goodMultiplier_KE m)

theorem CalRow.get_of_uniform {r : CalRow} (h1 : r.c1 = r.c0) (h2 : r.c2 = r.c0) (c : Chan) : r.get c = r.c0 := by
  cases c
  · rfl
  · exact h1
  · exact h2

theorem CalInv.voltage (h : CalInv s) (c : Chan) : GoodMultiplier s.cfg.P_NUMERICS (s.CAL_V.get c) := by
  obtain ⟨hv, _, hv1, hv2, _, _⟩ := h
  rwa [CalRow.get_of_uniform hv1 hv2]

theorem CalInv.current (h : CalInv s) (c : Chan) : GoodMultiplier s.cfg.P_NUMERICS (s.CAL_I.get c) := by
  obtain ⟨_, hi, _, _, hi1, hi2⟩ := h
  rwa [CalRow.get_of_uniform hi1 hi2]

/-! ### The result registers -/

theorem RvalInv.of_eq (hs : RvalInv s) (hcfg : t.cfg = s.cfg) (h0 : t.RVAL0 = s.RVAL0) (h1 : t.RVAL1 = s.RVAL1) :
    RvalInv t := by
  unfold RvalInv
  rw [hcfg, h0, h1]
  exact hs

theorem RvalInv.write0 (hs : RvalInv s) (hv : InDomain s.cfg.P_NUMERICS v) : RvalInv { s with RVAL0 := some v } :=
  ⟨fun _ h => Option.some.inj h ▸ hv, hs.2⟩

theorem RvalInv.write1 (hs : RvalInv s) (hv : InDomain s.cfg.P_NUMERICS v) : RvalInv { s with RVAL1 := some v } :=
  ⟨hs.1, fun _ h => Option.some.inj h ▸ hv⟩

/-- The conversions without a bus write a value of the domain (R172 to R175). -/
theorem RvalInv.pureWrite {i : Instr} (hcal : CalInv s) (hs : RvalInv s) (hw : PureWrite i s t) : RvalInv t := by
  by_cases hi : i.op ∈ [Op.CONV_V, .CONV_I, .CONV_P, .CONV_E]
  · cases i <;> simp [Instr.op] at hi
    case convV => obtain ⟨_, c, _, rfl⟩ := hw; exact hs.write0 (inDomain_convV (hcal.voltage c) _)
    case convI => obtain ⟨_, c, _, rfl⟩ := hw; exact hs.write0 (inDomain_convI (hcal.current c) _)
    case convP => obtain ⟨c, _, rfl⟩ := hw; exact hs.write0 (inDomain_convP (hcal.voltage c) (hcal.current c) _)
    case convE => obtain rfl := hw; exact hs.write0 (inDomain_convE _ _)
  · obtain ⟨ecfg, _, _, _, _, _, _, _, _, _, _, _, e1, _, _, _, e0, _⟩ := hw.frame
    exact hs.of_eq ecfg (e0 hi) e1

/-- The measurement reads write values of the domain (R193 to R197). -/
theorem RvalInv.busWrite (hcal : CalInv s) (hs : RvalInv s) (i : Instr) (p : Payload) : RvalInv (busWrite i p s) := by
  by_cases hi : i.op ∈ [Op.READ_RMS, .READ_RMS_V, .READ_RMS_I, .READ_POWER, .READ_ENERGY]
  · cases i <;> simp [Instr.op] at hi
    case readRms ch =>
      exact (hs.write0 (inDomain_convV (hcal.voltage (chanIx ch)) _)).write1 (inDomain_convI (hcal.current (chanIx ch)) _)
    case readRmsV ch => exact hs.write0 (inDomain_convV (hcal.voltage (chanIx ch)) _)
    case readRmsI ch => exact hs.write0 (inDomain_convI (hcal.current (chanIx ch)) _)
    case readPower ch => exact hs.write0 (inDomain_convP (hcal.voltage (chanIx ch)) (hcal.current (chanIx ch)) _)
    case readEnergy => exact hs.write0 (inDomain_convE _ _)
  · exact hs.of_eq (by simp) (busWrite_RVAL0 p s hi) (busWrite_RVAL1 p s (by rintro h; simp [h] at hi))

/-- The multipliers are good and the results are numbers of the domain. -/
def NumericsSound (s : State) : Prop := CalInv s ∧ RvalInv s

theorem numericsSound_leads_to_rvalInv : CommandsLead NumericsSound RvalInv where
  completes := fun _ _ h => h.2
  sentinel := fun _ ⟨hcal, hs⟩ => ⟨hcal, hs.write0 (inDomain_toNum _ _)⟩
  writes := fun i u v ⟨hcal, hs⟩ hw => ⟨calInv_kept_by_commands.writes i u v hcal hw, hs.pureWrite hcal hw⟩
  runs := fun i p u evs ⟨hcal, hs⟩ hb =>
    have hcal' : CalInv (u.didAll evs) := hcal
    have hs' : RvalInv (u.didAll evs) := hs
    ⟨calInv_kept_by_commands.runs i p u evs hcal hb, hs'.busWrite hcal' i p⟩
  hangs := fun _ _ _ _ _ h _ => h.2

/-- Settles O58: each result is an integer of the domain multiplied by positive finite numbers, so no infinity meets a zero. -/
theorem stepKeepsRvalInv : Obligations.StepKeepsRvalInv := fun _ _ hcal hs h =>
  numericsSound_leads_to_rvalInv.step (fun _ _ => hs) (fun _ _ _ _ => ⟨hcal, hs⟩) h

end Sys2Proof.Machine

namespace Sys2Proof.Machine

variable {s t : State}

/-! ## Every command and state: the statements of R34, R37, R39, R272 and of single steps -/

theorem Behaves.exists_next {i : Instr} {o : Outcome} (h : Behaves i s o) : ∃ t, o = .next t := by
  cases h with
  | raises => exact ⟨_, rfl⟩
  | sentinel => exact ⟨_, rfl⟩
  | writes => exact ⟨_, rfl⟩
  | runs _ hr =>
    obtain ⟨_, _, _, _, _, rfl⟩ | ⟨_, _, _, _, _, _, _, _, rfl⟩ := hr
    · exact ⟨_, rfl⟩
    · exact ⟨_, rfl⟩

/-- Settles O7: none of the ways in which a command can behave is a fault or a refusal. -/
theorem everyCommandAnswersANextState : Obligations.EveryCommandAnswersANextState := fun i s =>
  (exec_behaves i s).exists_next

/-! ### R39, R222: what no rule reads -/

/-- A next state changed. -/
def mapNext (φ : State → State) : Outcome → Outcome
  | .next s => .next (φ s)
  | .fault r => .fault r
  | .refused r => .refused r

/-- A state with another line frequency and time unit, and with `CRC_EN` changed by `g`: all that no rule reads (R39, R222). -/
def State.disturb (f : Nat) (u : TimeUnit) (g : Bool → Bool) (s : State) : State :=
  { s with cfg := { s.cfg with P_LINE_FREQ_HZ := f, P_TIME_UNIT := u }, CRC_EN := g s.CRC_EN }

section disturb

variable {f : Nat} {u : TimeUnit} {g : Bool → Bool}

theorem blind_disturb : Blind (State.disturb f u g) where
  cs _ := rfl
  rst _ := rfl
  sync _ := rfl
  strategy _ := rfl
  bus _ := rfl
  stall _ := rfl
  trace _ := rfl
  ic _ := rfl
  perform _ _ := rfl
  changePin _ _ _ := rfl
  begun _ := rfl
  inTxn _ _ := rfl
  answer _ _ := rfl

/-- A sequence that does not notice the change ends the command alike. -/
theorem Flow.Commutes.finish_disturb {k : State → Flow Unit} (h : Flow.Commutes (State.disturb f u g) k) (s : State) :
    (k (s.disturb f u g)).finish = mapNext (State.disturb f u g) (k s).finish := by
  rw [h s]
  cases k s with
  | on _ t => rfl
  | hung t => rfl

theorem readPath_disturb (n : Nat) (a : Byte) : Flow.Commutes (State.disturb f u g) (readPath n a) :=
  blind_disturb.readPath (fun _ _ => rfl) n a

theorem energyPath_disturb (c : Chan) (a : Byte) : Flow.Commutes (State.disturb f u g) (energyPath c a) := by
  intro s
  have hp : (s.disturb f u g).cfg.P_ENERGY_CH_PATH = s.cfg.P_ENERGY_CH_PATH := rfl
  unfold energyPath
  rw [hp]
  split
  · exact readPath_disturb _ a s
  · exact readPath_disturb _ a s

/-- The checks of a bus command do not notice the change, so the command does not when its actions do not. -/
theorem refuseOrRun_disturb (e : Option Status) {k : State → Flow Unit} (h : Flow.Commutes (State.disturb f u g) k)
    (s : State) :
    (match e with | some c => raise c (s.disturb f u g) | none => (k (s.disturb f u g)).finish) =
      mapNext (State.disturb f u g) (match e with | some c => raise c s | none => (k s).finish) := by
  cases e with
  | some c => rfl
  | none => exact h.finish_disturb s

theorem latchIfNeeded_disturb (latches : Bool) : Flow.Commutes (State.disturb f u g) (latchIfNeeded latches) := by
  intro s
  have hn : needsLatch latches (s.disturb f u g) = needsLatch latches s := rfl
  unfold latchIfNeeded
  rw [hn]
  split
  · exact blind_disturb.latchSeq s
  · rfl

theorem measureRead_disturb (q : Quantity) (latches sent : Bool) (ch : Byte) {body : Chan → Byte → State → Flow Unit}
    (hb : ∀ c a, Flow.Commutes (State.disturb f u g) (body c a)) (s : State) :
    measureRead q latches sent ch body (s.disturb f u g) =
      mapNext (State.disturb f u g) (measureRead q latches sent ch body s) := by
  have hm : (s.disturb f u g).cfg.P_ADDR_MAP = s.cfg.P_ADDR_MAP := rfl
  have he : readError latches (s.disturb f u g) = readError latches s := rfl
  unfold measureRead
  rw [hm, he]
  split
  · exact refuseOrRun_disturb _ ((latchIfNeeded_disturb latches).bind fun _ => hb _ _) s
  · cases sent <;> rfl

/-- No command but `SET_CRC` notices the change, and `SET_CRC` does not when `CRC_EN` is not changed. -/
theorem exec_disturb (i : Instr) (s : State) (hc : i.op = .SET_CRC → g = id) :
    exec i (s.disturb f u g) = mapNext (State.disturb f u g) (exec i s) := by
  cases i <;> simp only [exec]
  case init =>
    exact Flow.Commutes.finish_disturb
      (k := fun s => (bringup s).andThen fun _ s => .on () { s with READY := true, RINT := some 1 })
      (blind_disturb.bringup.bind fun _ _ => rfl) s
  case sendFrame => exact refuseOrRun_disturb (readyError s) (blind_disturb.sendf _) s
  case readFrame addr =>
    exact refuseOrRun_disturb (readyError s) ((readPath_disturb 4 addr).bind fun _ _ => rfl) s
  case readFrameSettled addr =>
    exact refuseOrRun_disturb (readyError s)
      ((readPath_disturb (P_SETTLE_EXCHANGES * 4) addr).bind fun _ _ => rfl) s
  case latch => exact refuseOrRun_disturb (firstError [readyError s, latchError s.cfg]) blind_disturb.latchSeq s
  case readRms =>
    exact measureRead_disturb _ _ _ _ (body := readRmsBody) (fun _ a => (readPath_disturb 4 a).bind fun _ _ => rfl) s
  case readRmsV =>
    exact measureRead_disturb _ _ _ _ (body := readRmsVBody) (fun _ a => (readPath_disturb 4 a).bind fun _ _ => rfl) s
  case readRmsI =>
    exact measureRead_disturb _ _ _ _ (body := readRmsIBody) (fun _ a => (readPath_disturb 4 a).bind fun _ _ => rfl) s
  case readPower =>
    exact measureRead_disturb _ _ _ _ (body := readPowerBody) (fun _ a => (readPath_disturb 4 a).bind fun _ _ => rfl) s
  case readEnergy =>
    exact measureRead_disturb _ _ _ _ (body := readEnergyBody) (fun c a => (energyPath_disturb c a).bind fun _ _ => rfl) s
  case addrLookup ch qty =>
    have hm : (s.disturb f u g).cfg.P_ADDR_MAP = s.cfg.P_ADDR_MAP := rfl
    unfold execAddrLookup
    rw [hm]
    cases quantityOf qty with
    | none => rfl
    | some q =>
      cases h : addrOf s.cfg.P_ADDR_MAP ch q with
      | none => simp only [h]; rfl
      | some a => simp only [h]; rfl
  case setCal => unfold execSetCal; split <;> rfl
  case setAutoLatch => unfold execSetAutoLatch; split <;> rfl
  case setCrc => obtain rfl := hc rfl; unfold execSetCrc; split <;> rfl
  case convV =>
    unfold execConvV
    split
    · rfl
    · split <;> rfl
  case convI =>
    unfold execConvI
    split
    · rfl
    · split <;> rfl
  case convP => unfold execConvP; split <;> rfl
  all_goals rfl

end disturb

/-- No command changes the configuration (R6). -/
theorem exec_cfg {i : Instr} (h : exec i s = .next t) : t.cfg = s.cfg := by
  obtain ⟨c, _, _, rfl⟩ | ⟨_, rfl⟩ | ⟨u, hu, rfl⟩ | ⟨p, evs, _, _, _, rfl⟩ | ⟨p, evs, rest, _, _, _, rfl, _⟩ := exec_next h
  · rfl
  · rfl
  · exact hu.frame.1
  · simp
  · rfl

/-- Settles O43: the two parameters are part of what no command notices. -/
theorem lineFrequencyAndTimeUnitAreInert : Obligations.LineFrequencyAndTimeUnitAreInert := by
  intro i s t f u h
  have hd := exec_disturb (f := f) (u := u) (g := id) i s fun _ => rfl
  have ht : t.disturb f u id = { t with cfg := { s.cfg with P_LINE_FREQ_HZ := f, P_TIME_UNIT := u } } := by
    rw [State.disturb, exec_cfg h]; rfl
  rw [h] at hd
  exact hd.trans (congrArg _ ht)

end Sys2Proof.Machine

namespace Sys2Proof.Machine

variable {s t : State}

/-! ### R22, R140, R198: the checks of the commands that drive the bus or the pins -/

/-- The first check on the state that fails, for a command that drives the bus or the pins (R242). -/
def busError (i : Instr) (s : State) : Option Status :=
  firstError [readyError s, if needsLatchNow i s then latchError s.cfg else none]

theorem busError_notReady (i : Instr) (h : s.READY = false) : busError i s = some .NOT_READY := by
  rw [busError, readyError_eq_some h]; rfl

theorem busError_noLatch {i : Instr} (hr : s.READY = true) (hn : needsLatchNow i s = true)
    (hl : s.cfg.P_LATCH_STRATEGY = .PIN) (hp : s.cfg.P_SYNC_PIN = none) : busError i s = some .LATCH_UNAVAILABLE := by
  have he : latchError s.cfg = some .LATCH_UNAVAILABLE := by simp [latchError, hl, hp]
  rw [busError, readyError_eq_none.2 hr, if_pos hn, he]; rfl

theorem measureRead_legal_error {q : Quantity} {latches sent : Bool} {ch : Byte} {body : Chan → Byte → State → Flow Unit}
    {c : Status} (hch : (readChan q ch).isSome = true) (he : readError latches s = some c) :
    measureRead q latches sent ch body s = raise c s := by
  obtain ⟨_, ha⟩ := Option.isSome_iff_exists.1 ((addrOf_isSome s.cfg.P_ADDR_MAP ch q).trans hch)
  obtain ⟨_, hc⟩ := Option.isSome_iff_exists.1 hch
  exact measureRead_error hc ha he

theorem chan_eq_of_legalRms {ch : Byte} (h : legalRmsChannel ch = true) : ch = 1 ∨ ch = 2 :=
  (of_decide_eq_true h).imp BitVec.eq_of_toNat_eq BitVec.eq_of_toNat_eq

theorem chan_eq_of_legalAny {ch : Byte} (h : legalAnyChannel ch = true) : ch = 0 ∨ ch = 1 ∨ ch = 2 := by
  have hle : ch.toNat ≤ 2 := of_decide_eq_true h
  have hcases : ch.toNat = 0 ∨ ch.toNat = 1 ∨ ch.toNat = 2 := by omega
  exact hcases.imp BitVec.eq_of_toNat_eq (·.imp BitVec.eq_of_toNat_eq BitVec.eq_of_toNat_eq)

/-- The channels of R192 are legal for their reads. -/
theorem readChan_isSome_of_legalRms {ch : Byte} (h : legalRmsChannel ch = true) :
    (readChan .RMS ch).isSome = true ∧ (readChan .POWER ch).isSome = true := by
  obtain rfl | rfl := chan_eq_of_legalRms h <;> exact ⟨rfl, rfl⟩

theorem readChan_isSome_of_legalAny {ch : Byte} (h : legalAnyChannel ch = true) : (readChan .ENERGY ch).isSome = true := by
  obtain rfl | rfl | rfl := chan_eq_of_legalAny h <;> rfl

/-- A command that drives the bus or the pins, with legal operands, raises the check that fails and does nothing else. -/
theorem exec_of_busError {i : Instr} {c : Status} (hn : needsReady i = true) (hw : i.wf = true)
    (he : busError i s = some c) : exec i s = raise c s := by
  have ready_of_noLatch : needsLatchNow i s = false → readyError s = some c := by
    intro h
    rw [busError, h] at he
    cases hr : readyError s with
    | none => simp [hr, firstError] at he
    | some d => simpa [hr, firstError] using he
  have read_of_latches : ∀ l, needsLatchNow i s = needsLatch l s → readError l s = some c := by
    intro l h
    rwa [busError, h] at he
  cases i <;> simp [needsReady, Instr.op] at hn <;> simp only [exec]
  case sendFrame => rw [execSendFrame, ready_of_noLatch rfl]
  case readFrame => rw [execReadFrame, ready_of_noLatch rfl]
  case readFrameSettled => rw [execReadFrameSettled, ready_of_noLatch rfl]
  case latch =>
    have he' : firstError [readyError s, latchError s.cfg] = some c := he
    rw [execLatch, he']
  case readRms => exact measureRead_legal_error (readChan_isSome_of_legalRms hw).1 (read_of_latches true rfl)
  case readRmsV => exact measureRead_legal_error (readChan_isSome_of_legalRms hw).1 (read_of_latches true rfl)
  case readRmsI => exact measureRead_legal_error (readChan_isSome_of_legalRms hw).1 (read_of_latches true rfl)
  case readPower => exact measureRead_legal_error (readChan_isSome_of_legalRms hw).2 (read_of_latches true rfl)
  case readEnergy => exact measureRead_legal_error (readChan_isSome_of_legalAny hw) (read_of_latches false rfl)

/-- Settles O48: the two checks on the state come before any interface action. -/
theorem busCommandsNeedBringupAndALatch : Obligations.BusCommandsNeedBringupAndALatch := fun i _ hn hw =>
  ⟨fun hr => exec_of_busError hn hw (busError_notReady i hr),
    fun hr hl hp hlatch => exec_of_busError hn hw (busError_noLatch hr hlatch hl hp)⟩

/-! ### R37: which commands write which elements -/

/-- The commands with interface actions. -/
theorem BusEvents.op_mem {i : Instr} {p : Payload} {evs : List Event} (h : BusEvents i s p evs) :
    i.op ∈ [Op.INIT, .SEND_FRAME, .READ_FRAME, .READ_FRAME_SETTLED, .LATCH, .READ_RMS, .READ_RMS_V, .READ_RMS_I,
      .READ_POWER, .READ_ENERGY] := by
  obtain h | ⟨_, h⟩ := h.op
  · simp [h]
  · exact List.mem_cons_of_mem _ (of_decide_eq_true h)

/-- The commands that leave a sentinel are among those that write `RVAL0` (R37, R241). -/
theorem op_mem_of_leavesSentinel {i : Instr} (h : leavesSentinel i = true) :
    i.op ∈ [Op.CONV_V, .CONV_I, .CONV_P, .CONV_E, .READ_RMS, .READ_RMS_V, .READ_RMS_I, .READ_POWER, .READ_ENERGY] := by
  have hsub : [Op.READ_RMS_V, .READ_RMS_I, .READ_POWER, .READ_ENERGY, .CONV_V, .CONV_I, .CONV_P] ⊆
      [Op.CONV_V, .CONV_I, .CONV_P, .CONV_E, .READ_RMS, .READ_RMS_V, .READ_RMS_I, .READ_POWER, .READ_ENERGY] := by decide
  exact hsub (of_decide_eq_true h)

/-- Settles O49: each way a command can go on writes no more than R37 lists for it. -/
theorem onlyTheListedCommandsWrite : Obligations.OnlyTheListedCommandsWrite := by
  intro i s t h
  obtain ⟨c, _, _, rfl⟩ | ⟨hl, rfl⟩ | ⟨u, hu, rfl⟩ | ⟨p, evs, hb, _, _, rfl⟩ | ⟨p, evs, rest, hb, _, _, rfl, _⟩ := exec_next h
  case inl => simp
  case inr.inl =>
    exact ⟨fun _ => rfl, fun _ => rfl, fun _ => rfl, fun _ => ⟨rfl, rfl⟩,
      fun hi => absurd (op_mem_of_leavesSentinel hl) hi, fun _ => rfl, fun _ => rfl, fun _ => rfl,
      fun _ => ⟨rfl, rfl, rfl, rfl, rfl, rfl⟩, rfl, rfl⟩
  case inr.inr.inl =>
    obtain ⟨ecfg, _, eready, epin, ebus, etxn, etrace, _, eic, estall, eport, epb, e1, eauto, ecrc, ecal, e0, eint⟩ :=
      hu.frame
    exact ⟨fun _ => eready, fun hi => eauto (List.ne_of_not_mem_cons hi), fun hi => ecrc (List.ne_of_not_mem_cons hi),
      fun hi => ecal (List.ne_of_not_mem_cons hi), fun hi => e0 fun hm => hi (List.mem_append_left _ hm), fun _ => e1,
      fun hi => eint fun hm => hi (List.mem_cons_of_mem _ hm), fun _ => epb,
      fun _ => ⟨epin, ebus, etxn, etrace, eic, estall⟩, eport, ecfg⟩
  case inr.inr.inr.inl =>
    have hinit {l : List Op} (hi : i.op ∉ Op.INIT :: l) : i.op ≠ .INIT := List.ne_of_not_mem_cons hi
    exact ⟨fun hi => by simp [busWrite_READY, hinit hi], fun _ => by simp, fun _ => by simp, fun _ => by simp,
      fun hi => busWrite_RVAL0 p _ fun hm => hi (List.mem_append_right [Op.CONV_V, .CONV_I, .CONV_P, .CONV_E] hm),
      fun hi => busWrite_RVAL1 p _ (List.ne_of_not_mem_cons hi), fun hi => by simp [busWrite_RINT, hinit hi],
      fun hi => busWrite_PB p _ hi, fun hi => absurd hb.op_mem hi, by simp, by simp⟩
  case inr.inr.inr.inr =>
    exact ⟨fun _ => rfl, fun _ => rfl, fun _ => rfl, fun _ => ⟨rfl, rfl⟩, fun _ => rfl, fun _ => rfl, fun _ => rfl,
      fun _ => rfl, fun hi => absurd hb.op_mem hi, rfl, rfl⟩

/-! ### R33, R22, R31, R6, R21: what steps never undo -/

/-- What came after `s` has kept its events, its configuration and the commands waiting at its port, and has not taken back
`READY` or `BUS_BEGUN`. -/
def Extends (s t : State) (port : List Command) : Prop :=
  s.TRACE <+: t.TRACE ∧ (s.READY = true → t.READY = true) ∧ (s.BUS_BEGUN = true → t.BUS_BEGUN = true) ∧
  t.cfg = s.cfg ∧ t.PORT = port

theorem Extends.didAll {u : State} {port : List Command} (h : Extends s u port) (evs : List Event) :
    Extends s (u.didAll evs) port := by
  obtain ⟨htrace, hready, hbus, hcfg, hport⟩ := h
  exact ⟨htrace.trans (List.prefix_append _ _), hready, fun h => by simp [hbus h], hcfg, hport⟩

theorem Extends.of_eq {u v : State} {port : List Command} (h : Extends s u port) (hcfg : v.cfg = u.cfg)
    (hready : u.READY = true → v.READY = true) (hbus : v.BUS_BEGUN = u.BUS_BEGUN) (htrace : v.TRACE = u.TRACE)
    (hport : v.PORT = u.PORT) : Extends s v port := by
  unfold Extends at h ⊢
  rw [hcfg, hbus, htrace, hport]
  exact h.imp id (.imp (hready ∘ ·) id)

theorem extends_kept_by_commands (s : State) (port : List Command) :
    CommandsLead (Extends s · port) (Extends s · port) where
  completes := fun _ _ h => h
  sentinel := fun _ h => h
  writes := by
    intro i u v h hw
    obtain ⟨ecfg, _, eready, _, ebus, _, etrace, _, _, _, eport, _⟩ := hw.frame
    exact h.of_eq ecfg eready.trans ebus etrace eport
  runs := fun i p u evs h _ =>
    (h.didAll evs).of_eq (by simp) (fun hr => by rw [busWrite_READY, hr]; rfl) (by simp) (by simp) (by simp)
  hangs := fun _ _ _ evs _ h _ => h.didAll evs

/-- Settles O50: actions add events, no write clears a flag, and only accepting a command takes one from the port. -/
theorem stepsNeverUndo : Obligations.StepsNeverUndo := fun s _ h =>
  (extends_kept_by_commands s s.PORT.tail).step
    (fun _ hp => ⟨List.prefix_rfl, id, id, rfl, by rw [hp]; rfl⟩)
    (fun c later _ hp => ⟨List.prefix_rfl, id, id, rfl, by rw [hp]; rfl⟩) h

/-! ### R21, R254: the step of a busy and of an idle engine -/

theorem step_of_busy (h : s.BUSY = true) : step s = .fault .stuck := by
  rw [step, if_pos h]

theorem step_of_nothing_presented (h : s.BUSY = false) (hp : s.PORT = []) : step s = .next s := by
  rw [step, if_neg (by simp [h]), hp]

/-- Settles O6: the first two branches of `step`. -/
theorem busyEngineIsStuckAndIdleEngineWaits : Obligations.BusyEngineIsStuckAndIdleEngineWaits :=
  ⟨fun _ => step_of_busy, fun _ => step_of_nothing_presented⟩

/-! ### R34, R240: what the host reads -/

/-- The code table of R240. -/
theorem code_of_mem {c : Status} {x : Byte}
    (h : (c, x) ∈ [(Status.OK, (0x00 : Byte)), (.INVALID_CHANNEL, 0x01), (.ILLEGAL_OPCODE, 0x02), (.ILLEGAL_OPERAND, 0x03),
      (.NOT_READY, 0x04), (.INVALID_CAL, 0x05), (.BAD_LENGTH, 0x06), (.LATCH_UNAVAILABLE, 0x07)]) : c.code = x := by
  cases c <;> simp at h <;> exact h.symm

/-- Settles O9: each register is read by itself, unwritten or written. -/
theorem hostReadsFaultExactlyWhenUnwritten : Obligations.HostReadsFaultExactlyWhenUnwritten := by
  intro s
  refine ⟨fun h => ?_, fun h => ?_, fun h => ?_, fun h => ?_, fun i h => ?_, fun c x h hx => ?_, fun v h => ?_,
    fun v h => ?_, fun z h => ?_, fun p h => ⟨?_, ?_, ?_, ?_⟩⟩
  case refine_6 => rw [← code_of_mem hx]; simp [hostRead, readOr, h]
  all_goals simp [hostRead, readOr, Payload.get, h]

end Sys2Proof.Machine

/-! ## The encoding, the port that decodes it, and the operands (R72 to R75, R84) -/

namespace Sys2Proof

/-! ### R73, R74: decode and encode are inverse -/

/-- What the encoding of a command decodes to: its opcode is found, its length is right, its operands are read back. -/
theorem decode_encode (i : Instr) : decode (encode i) = .ok i := by
  simp only [encode, decode, opOf_code, operandBytes_length, operands_operandBytes, if_true]

/-- Settles O2: no bit of an operand is dropped or moved, in any of the formats. -/
theorem decodeOfEncodeIsTheCommand : Obligations.DecodeOfEncodeIsTheCommand := decode_encode

theorem decode_of_opOf_eq_none {b : Byte} (rest : List Byte) (h : opOf b = none) :
    decode (b :: rest) = .error .illegalOpcode := by
  simp only [decode, h]

theorem decode_of_length_ne {b : Byte} {o : Op} {rest : List Byte} (h : opOf b = some o) (hl : rest.length + 1 ≠ o.length) :
    decode (b :: rest) = .error .badLength := by
  simp only [decode, h, if_neg hl]

/-- The operand bytes of an opcode's command, behind its opcode byte, are the encoding of that command. -/
theorem encode_of_operands {b : Byte} {o : Op} {rest : List Byte} {i : Instr} (h : opOf b = some o)
    (hi : operands o rest = some i) : encode i = b :: rest := by
  obtain ⟨hop, hbytes⟩ := operands_eq_some hi
  rw [encode, hop, hbytes, code_of_opOf h]

/-- A string of the length that its opcode fixes is the encoding of a command (R84). -/
theorem exists_encode_eq {b : Byte} {o : Op} {rest : List Byte} (h : opOf b = some o) (hl : rest.length + 1 = o.length) :
    ∃ i, encode i = b :: rest :=
  (operands_isSome hl).imp fun _ => encode_of_operands h

theorem encode_of_decode {bytes : List Byte} {i : Instr} (h : decode bytes = .ok i) : encode i = bytes := by
  cases bytes with
  | nil => simp [decode] at h
  | cons b rest =>
    cases ho : opOf b with
    | none => simp [decode_of_opOf_eq_none rest ho] at h
    | some o =>
      by_cases hl : rest.length + 1 = o.length
      · obtain ⟨j, hj⟩ := exists_encode_eq ho hl
        rw [← hj, decode_encode] at h
        exact Except.ok.inj h ▸ hj
      · simp [decode_of_length_ne ho hl] at h

/-- One equation for both directions of the round trip: every command has exactly one encoding. -/
theorem decode_eq_ok_iff {bytes : List Byte} {i : Instr} : decode bytes = .ok i ↔ encode i = bytes := by
  refine ⟨encode_of_decode, ?_⟩
  rintro rfl
  exact decode_encode i

/-- Settles O3: a string that decodes has an assigned opcode and its length, so it is the encoding of some command, which is
the one it decodes to. -/
theorem encodeOfDecodeIsTheString : Obligations.EncodeOfDecodeIsTheString := fun _ _ => decode_eq_ok_iff.1

/-- Settles O1: each string evaluates. -/
theorem writtenOutWordsDecode : Obligations.WrittenOutWordsDecode := by
  unfold Obligations.WrittenOutWordsDecode
  decide

/-! ### R73: the opcode map -/

theorem Op.mem_all (o : Op) : o ∈ Op.all := by cases o <;> decide

theorem opOf_eq_some_iff {b : Byte} {o : Op} : opOf b = some o ↔ o.code = b :=
  ⟨code_of_opOf, fun h => h ▸ opOf_code o⟩

end Sys2Proof

namespace Sys2Proof.Machine

variable {s : State} {c : Command} {later : List Command}

/-- The map of the statements is the one the decoder uses. -/
theorem opcodeMap_eq : opcodeMap = Op.all.map fun o => (o.code, o.length) := rfl

theorem mem_opcodeMap {b : Byte} {n : Nat} : (b, n) ∈ opcodeMap ↔ ∃ o, opOf b = some o ∧ o.length = n := by
  simp [opcodeMap_eq, Op.mem_all, opOf_eq_some_iff]

theorem opOf_eq_none_of_unassigned {b : Byte} (h : b ∉ opcodeMap.map Prod.fst) : opOf b = none :=
  Option.eq_none_iff_forall_ne_some.2 fun o ho => h (List.mem_map.2 ⟨_, mem_opcodeMap.2 ⟨o, ho, rfl⟩, rfl⟩)

theorem unassigned_opcode_count :
    ((List.range 256).filter (fun n => !(opcodeMap.map Prod.fst).contains (BitVec.ofNat 8 n))).length = 234 := by
  decide +kernel

/-! ### R84: the step of a free engine with a command at its port -/

theorem step_of_decode_ok {i : Instr} (hb : s.BUSY = false) (hp : s.PORT = c :: later) (h : decode c.bytes = .ok i) :
    step s = exec i (s.accept later) := by
  simp [step, hb, hp, h]

/-- A string that is no command leaves the port and its status, and nothing else (R75). -/
theorem step_of_decode_error {e : DecodeError} (hb : s.BUSY = false) (hp : s.PORT = c :: later)
    (h : decode c.bytes = .error e) :
    step s = .next { s with PORT := later, STATUS := some (decodeStatus e), SEQ := none } := by
  simp only [step, hb, hp, h, rejectCommand, raise, Bool.false_eq_true, if_false, Host.Outcome.next.injEq]
  cases s
  cases hb
  rfl

/-- Settles O5: the last branch of `step`. -/
theorem stepRunsTheDecodedCommand : Obligations.StepRunsTheDecodedCommand := fun _ _ _ _ => step_of_decode_ok

/-- Settles O4: the three outcomes of the decoding procedure, by the opcode and then by the length. -/
theorem portFollowsTheDecodingProcedure : Obligations.PortFollowsTheDecodingProcedure := by
  refine ⟨fun s b rest later hb hp => ⟨fun hmem => ?_, fun n hmem hlen => ?_, fun n hmem hlen => ?_⟩,
    unassigned_opcode_count⟩
  · exact step_of_decode_error hb hp (decode_of_opOf_eq_none rest (opOf_eq_none_of_unassigned hmem))
  · obtain ⟨o, ho, rfl⟩ := mem_opcodeMap.1 hmem
    exact step_of_decode_error hb hp (decode_of_length_ne ho hlen)
  · obtain ⟨o, ho, rfl⟩ := mem_opcodeMap.1 hmem
    obtain ⟨i, hi⟩ := exists_encode_eq ho hlen
    exact ⟨i, hi, step_of_decode_ok hb hp (decode_eq_ok_iff.2 hi)⟩

end Sys2Proof.Machine

namespace Sys2Proof.Machine

variable {s : State}

/-! ### R72, R192, R220: an operand selects something exactly when it is legal -/

theorem exists_chanOf {ch : Byte} (h : legalAnyChannel ch = true) : ∃ c, chanOf ch = some c := by
  obtain rfl | rfl | rfl := chan_eq_of_legalAny h <;> exact ⟨_, rfl⟩

theorem chanOf_eq_none_of_illegal {ch : Byte} (h : legalAnyChannel ch = false) : chanOf ch = none :=
  chanOf_eq_none (by rintro rfl; cases h) (by rintro rfl; cases h) (by rintro rfl; cases h)

theorem readChan_eq_none_of_illegalRms {q : Quantity} {ch : Byte} (hq : q ≠ .ENERGY) (h : legalRmsChannel ch = false) :
    readChan q ch = none := by
  have h1 : ch ≠ 1 := by rintro rfl; cases h
  have h2 : ch ≠ 2 := by rintro rfl; cases h
  have hc : chanOf ch = some .ch0 ∨ chanOf ch = none := by
    by_cases h0 : ch = 0
    · exact .inl (if_pos h0)
    · exact .inr (chanOf_eq_none h0 h1 h2)
  unfold readChan
  obtain hc | hc := hc <;> cases q <;> simp_all

/-- The legal channels of a quantity (R192). -/
theorem isSome_readChan (q : Quantity) (ch : Byte) :
    (readChan q ch).isSome = if q = .ENERGY then legalAnyChannel ch else legalRmsChannel ch := by
  split
  case isTrue hq =>
    subst hq
    cases h : legalAnyChannel ch with
    | true => exact readChan_isSome_of_legalAny h
    | false => exact congrArg Option.isSome (chanOf_eq_none_of_illegal h)
  case isFalse hq =>
    cases h : legalRmsChannel ch with
    | true =>
      obtain ⟨hrms, hpower⟩ := readChan_isSome_of_legalRms h
      cases q with
      | RMS => exact hrms
      | POWER => exact hpower
      | ENERGY => exact absurd rfl hq
    | false => exact congrArg Option.isSome (readChan_eq_none_of_illegalRms hq h)

/-- The register that `ADDR_LOOKUP` asks for exists exactly on the legal channels of its quantity (R190, R192). -/
theorem isSome_addrOf_of_quantityOf {qty : Byte} {q : Quantity} (m : AddrMap) (ch : Byte) (h : quantityOf qty = some q) :
    (addrOf m ch q).isSome = if qty.toNat = 2 then legalAnyChannel ch else legalRmsChannel ch := by
  have henergy : q = .ENERGY ↔ qty.toNat = 2 := by
    unfold quantityOf at h
    split_ifs at h with h0 h1 h2
    · subst h0; cases h; decide
    · subst h1; cases h; decide
    · subst h2; cases h; decide
  rw [addrOf_isSome, isSome_readChan]
  simp only [henergy]

theorem exists_quantityOf {qty : Byte} (h : qty.toNat ≤ 2) : ∃ q, quantityOf qty = some q := by
  obtain rfl | rfl | rfl := chan_eq_of_legalAny (decide_eq_true h) <;> exact ⟨_, rfl⟩

theorem exists_flagOf {flag : Byte} (h : flag.toNat ≤ 1) : ∃ b, flagOf flag = some b := by
  obtain h0 | h1 : flag.toNat = 0 ∨ flag.toNat = 1 := by omega
  · exact ⟨false, if_pos (BitVec.eq_of_toNat_eq h0)⟩
  · obtain rfl : flag = 1 := BitVec.eq_of_toNat_eq h1
    exact ⟨true, rfl⟩

theorem positiveFinite_eq_legalMultiplier (x : Word32) : positiveFinite x = legalMultiplier x :=
  Bool.eq_iff_iff.2 ((positiveFinite_iff x).trans decide_eq_true_iff.symm)

/-- Operands are legal exactly when none of the causes of R240 applies to them. -/
theorem wf_eq (i : Instr) : i.wf = !(illegalOperand i || invalidChannel i || invalidCal i) := by
  cases i <;> simp [Instr.wf, illegalOperand, invalidChannel, invalidCal, legalQuantity, legalFlag, ← decide_not]
  case addrLookup => split <;> rw [Bool.not_not]

/-! ### R240: what a command does on each cause of an operand error -/

theorem exec_of_illegalOperand {i : Instr} (h : illegalOperand i = true) : exec i s = raise .ILLEGAL_OPERAND s := by
  cases i <;> simp only [illegalOperand, decide_eq_true_eq, Bool.false_eq_true] at h <;> simp only [exec]
  case addrLookup => rw [execAddrLookup, quantityOf_eq_none h]
  case setAutoLatch => rw [execSetAutoLatch, flagOf_eq_none h]
  case setCrc => rw [execSetCrc, flagOf_eq_none h]
  case convV => rw [execConvV, if_pos h]
  case convI => rw [execConvI, if_pos h]

/-- The sentinel is left by the commands that R241 lists. -/
theorem exec_of_invalidChannel {i : Instr} (ho : illegalOperand i = false) (h : invalidChannel i = true) :
    exec i s = if leavesSentinel i then raiseSentinel s else raise .INVALID_CHANNEL s := by
  cases i <;> simp only [invalidChannel, Bool.not_eq_true', Bool.false_eq_true] at h <;> simp only [exec]
  case readRms => exact measureRead_invalid (readChan_eq_none_of_illegalRms (by decide) h)
  case readRmsV => exact measureRead_invalid (readChan_eq_none_of_illegalRms (by decide) h)
  case readRmsI => exact measureRead_invalid (readChan_eq_none_of_illegalRms (by decide) h)
  case readPower => exact measureRead_invalid (readChan_eq_none_of_illegalRms (by decide) h)
  case readEnergy => exact measureRead_invalid (chanOf_eq_none_of_illegal h)
  case addrLookup ch qty =>
    obtain ⟨q, hq⟩ := exists_quantityOf (not_lt.1 (of_decide_eq_false ho))
    have hnone : addrOf s.cfg.P_ADDR_MAP ch q = none := by
      rw [← Option.not_isSome_iff_eq_none, isSome_addrOf_of_quantityOf _ ch hq]
      split at h <;> simp_all
    simp only [execAddrLookup, hq, hnone]
    rfl
  case convV => rw [execConvV, if_neg (of_decide_eq_false ho), chanOf_eq_none_of_illegal h]; rfl
  case convI => rw [execConvI, if_neg (of_decide_eq_false ho), chanOf_eq_none_of_illegal h]; rfl
  case convP => rw [execConvP, chanOf_eq_none_of_illegal h]; rfl

theorem exec_of_invalidCal {i : Instr} (h : invalidCal i = true) : exec i s = raise .INVALID_CAL s := by
  cases i <;> simp only [invalidCal, Bool.false_eq_true] at h
  case setCal =>
    rw [exec, execSetCal, positiveFinite_eq_legalMultiplier, positiveFinite_eq_legalMultiplier,
      if_neg (by simpa only [Bool.not_eq_true', Bool.not_eq_true] using h)]

/-! ### R242: the status of every command -/

/-- A command is over, with the status `c`. -/
def EndsWith (o : Outcome) (c : Status) : Prop := ∃ t, o = .next t ∧ t.STATUS = some c

theorem endsWith_ok (s : State) : EndsWith (ok s) .OK := ⟨_, rfl, rfl⟩

theorem endsWith_raise (c : Status) (s : State) : EndsWith (raise c s) c := ⟨_, rfl, rfl⟩

theorem Ran.endsWith_ok {ι : Type} {o : Outcome} {full : ι → List Event → Prop} {upd : ι → State → State}
    (h : Ran o s full upd) (hs : s.STALL = none) : EndsWith o .OK := by
  obtain ⟨_, _, _, _, rfl⟩ := h.live hs
  exact Machine.endsWith_ok _

/-- A measurement read that passes its checks (R198). -/
theorem measureRead_endsWith_ok {q : Quantity} {latches sent : Bool} {ch : Byte} {body : Chan → Byte → State → Flow Unit}
    {dropped : Config → Chan → Nat} {upd : Chan → Payload → State → State} (hs : s.STALL = none)
    (hch : (readChan q ch).isSome = true) (he : readError latches s = none)
    (hb : ∀ c a (t : State), (body c a t).Ends t (fun p evs => ∃ ra d : List Byte, ra.length = 4 ∧ d.length = dropped t.cfg c ∧
      evs = readEvents t.cfg a ra d p) (upd c)) :
    EndsWith (measureRead q latches sent ch body s) .OK := by
  obtain ⟨a, ha⟩ := Option.isSome_iff_exists.1 ((addrOf_isSome s.cfg.P_ADDR_MAP ch q).trans hch)
  obtain ⟨c, hc⟩ := Option.isSome_iff_exists.1 hch
  have hbody : ∀ t : State, t.cfg = s.cfg → (body c a t).Ends t (fun p evs => ∃ ra d : List Byte, ra.length = 4 ∧
      d.length = dropped s.cfg c ∧ evs = readEvents s.cfg a ra d p) (upd c) := fun t ht => ht ▸ hb c a t
  exact (measureRead_ran hc ha he hbody).endsWith_ok hs

theorem latchAvailable_iff (c : Config) : LatchAvailable c ↔ latchUnavailable c = false := by
  simp [LatchAvailable, latchUnavailable, Option.isSome_iff_ne_none]

theorem needsReady_of_needsLatchNow {i : Instr} (h : needsLatchNow i s = true) : needsReady i = true := by
  cases i <;> first | rfl | simp [needsLatchNow, Instr.op] at h

/-- A command with legal operands that finds the bring-up and the latch it needs (R22, R140) succeeds. -/
theorem exec_endsWith_ok {i : Instr} (hs : s.STALL = none) (hw : i.wf = true) (hready : needsReady i = true → s.READY = true)
    (hlatch : needsLatchNow i s = true → LatchAvailable s.cfg) : EndsWith (exec i s) .OK := by
  have latching : needsReady i = true → needsLatchNow i s = !s.AUTO_LATCH → readError true s = none := fun hn h => by
    refine readError_eq_none (hready hn) ?_
    cases ha : s.AUTO_LATCH with
    | true => exact .inl rfl
    | false => exact .inr (hlatch (by rw [h, ha]; rfl))
  cases i <;> simp only [exec]
  case init => exact (execInit_ran s).endsWith_ok hs
  case sendFrame => exact (execSendFrame_ran _ _ _ _ s (hready rfl)).endsWith_ok hs
  case readFrame => exact (execReadFrame_ran _ s (hready rfl)).endsWith_ok hs
  case readFrameSettled => exact (execReadFrameSettled_ran _ s (hready rfl)).endsWith_ok hs
  case latch => exact (execLatch_ran s (hready rfl) (latchError_eq_none.2 (hlatch rfl))).endsWith_ok hs
  case readRms =>
    exact measureRead_endsWith_ok (dropped := fun _ _ => 0) hs (readChan_isSome_of_legalRms hw).1 (latching rfl rfl)
      readRmsBody_ends
  case readRmsV =>
    exact measureRead_endsWith_ok (dropped := fun _ _ => 0) hs (readChan_isSome_of_legalRms hw).1 (latching rfl rfl)
      readRmsVBody_ends
  case readRmsI =>
    exact measureRead_endsWith_ok (dropped := fun _ _ => 0) hs (readChan_isSome_of_legalRms hw).1 (latching rfl rfl)
      readRmsIBody_ends
  case readPower =>
    exact measureRead_endsWith_ok (dropped := fun _ _ => 0) hs (readChan_isSome_of_legalRms hw).2 (latching rfl rfl)
      readPowerBody_ends
  case readEnergy =>
    have he : readError false s = none := by rw [readError, readyError_eq_none.2 (hready rfl)]; rfl
    exact measureRead_endsWith_ok (dropped := energyDropped) hs (readChan_isSome_of_legalAny hw) he readEnergyBody_ends
  case addrLookup ch qty =>
    obtain ⟨hqty, hch⟩ := Bool.and_eq_true_iff.1 hw
    obtain ⟨q, hq⟩ := exists_quantityOf (of_decide_eq_true hqty)
    obtain ⟨a, ha⟩ := Option.isSome_iff_exists.1 ((isSome_addrOf_of_quantityOf s.cfg.P_ADDR_MAP ch hq).trans hch)
    simp only [execAddrLookup, hq, ha]
    exact endsWith_ok _
  case setCal kv ki =>
    have hcal : (legalMultiplier kv && legalMultiplier ki) = true := hw
    rw [execSetCal, positiveFinite_eq_legalMultiplier, positiveFinite_eq_legalMultiplier, if_pos hcal]
    exact endsWith_ok _
  case setAutoLatch =>
    obtain ⟨b, hb⟩ := exists_flagOf (of_decide_eq_true hw)
    rw [execSetAutoLatch, hb]
    exact endsWith_ok _
  case setCrc =>
    obtain ⟨b, hb⟩ := exists_flagOf (of_decide_eq_true hw)
    rw [execSetCrc, hb]
    exact endsWith_ok _
  case convV ch raw =>
    obtain ⟨hraw, hch⟩ := Bool.and_eq_true_iff.1 hw
    obtain ⟨c, hc⟩ := exists_chanOf hch
    rw [execConvV, if_neg (not_lt.2 (of_decide_eq_true hraw)), hc]
    exact endsWith_ok _
  case convI ch raw =>
    obtain ⟨hraw, hch⟩ := Bool.and_eq_true_iff.1 hw
    obtain ⟨c, hc⟩ := exists_chanOf hch
    rw [execConvI, if_neg (not_lt.2 (of_decide_eq_true hraw)), hc]
    exact endsWith_ok _
  case convP ch raw =>
    obtain ⟨c, hc⟩ := exists_chanOf hw
    rw [execConvP, hc]
    exact endsWith_ok _
  all_goals exact endsWith_ok _

/-- On a platform that completes its actions every command ends with the status of the first cause in the order of R242. -/
theorem exec_endsWith_statusBySpec (i : Instr) (hs : s.STALL = none) : EndsWith (exec i s) (statusBySpec i s) := by
  unfold statusBySpec
  split_ifs with ho hc hk hr hl
  case pos => rw [exec_of_illegalOperand ho]; exact endsWith_raise _ _
  case pos =>
    rw [exec_of_invalidChannel (Bool.eq_false_iff.2 ho) hc]
    split <;> exact endsWith_raise _ _
  case pos => rw [exec_of_invalidCal hk]; exact endsWith_raise _ _
  all_goals have hw : i.wf = true := by simp [wf_eq, ho, hc, hk]
  case pos =>
    obtain ⟨hn, hready⟩ := Bool.and_eq_true_iff.1 hr
    rw [exec_of_busError hn hw (busError_notReady i (by simpa using hready))]
    exact endsWith_raise _ _
  all_goals have hready : needsReady i = true → s.READY = true := fun hn => by simpa [hn] using hr
  case pos =>
    obtain ⟨hn, hun⟩ := Bool.and_eq_true_iff.1 hl
    have hn' := needsReady_of_needsLatchNow hn
    obtain ⟨hpin, hnone⟩ := Bool.and_eq_true_iff.1 hun
    rw [exec_of_busError hn' hw
      (busError_noLatch (hready hn') hn (of_decide_eq_true hpin) (Option.isNone_iff_eq_none.1 hnone))]
    exact endsWith_raise _ _
  case neg =>
    exact exec_endsWith_ok hs hw hready fun hn => (latchAvailable_iff _).2 (by simpa [hn] using hl)

/-- Settles O46: the three operand errors are the first three causes of R242, and operands are legal when none of them applies. -/
theorem legalOperandsDrawNoOperandError : Obligations.LegalOperandsDrawNoOperandError := by
  intro i s t hs h
  obtain ⟨u, hu, hc⟩ := exec_endsWith_statusBySpec i hs
  obtain rfl : t = u := Host.Outcome.next.inj (h.symm.trans hu)
  rw [hc, wf_eq]
  unfold statusBySpec
  split_ifs <;> simp_all

end Sys2Proof.Machine

namespace Sys2Proof.Machine

/-! ### R101, R104, R106, R107: bring-up, once and again -/

/-- Settles O10: a platform that completes its actions carries out the whole event list of bring-up (`execInit_ran`), and
`afterEvents_bringup` says what those events leave. -/
theorem initPerformsBringup : Obligations.InitPerformsBringup := by
  intro s hs
  obtain ⟨_, _, rfl, _, hexec⟩ := (execInit_ran s).live hs
  rw [afterEvents_bringup] at hexec
  exact hexec

/-- Settles O11: `INIT` leaves the platform and the configuration of `s`, so `initPerformsBringup` describes the second run too,
and every element that it writes, but `TRACE`, has that value already. -/
theorem repeatedInitOnlyGrowsTheTrace : Obligations.RepeatedInitOnlyGrowsTheTrace := by
  intro s t hs h
  have ht := Host.Outcome.next.inj ((initPerformsBringup s hs).symm.trans h)
  have hstall : t.STALL = none := by rw [← ht]; exact hs
  rw [initPerformsBringup t hstall]
  subst ht
  cases s.cfg.P_SYNC_PIN with
  | none => rfl
  | some _ => rfl

end Sys2Proof.Machine

namespace Sys2Proof.Machine

variable {s t : State} {c : Config} {ph ph' : TxnPhase}

/-! ## R120, R57: the transaction discipline of the trace -/

theorem txnPhase_append (c : Config) (ph : TxnPhase) (a b : List Event) :
    txnPhase c ph (a ++ b) = (txnPhase c ph a).bind fun ph' => txnPhase c ph' b := by
  induction a generalizing ph with
  | nil => rfl
  | cons e a ih => cases h : ph.next c e <;> simp [txnPhase, h, ih]

/-- With chip-select low every transfer counts. -/
theorem txnPhase_transfers (c : Config) (k : Nat) {sent recv : List Byte} (h : recv.length = sent.length) :
    txnPhase c (.selected k) (List.zipWith Event.X sent recv) = some (.selected (k + sent.length)) := by
  induction sent generalizing k recv with
  | nil => rfl
  | cons b sent ih => cases recv with
    | nil => simp at h
    | cons r recv =>
      have hrest := ih (k + 1) (by simpa using h)
      simpa [txnPhase, TxnPhase.next, Nat.add_assoc, Nat.add_comm] using hrest

/-- The events keep the discipline from outside a transaction to outside a transaction. -/
def WholeTxns (c : Config) (evs : List Event) : Prop := txnPhase c .outside evs = some .outside

theorem WholeTxns.append {a b : List Event} (ha : WholeTxns c a) (hb : WholeTxns c b) : WholeTxns c (a ++ b) := by
  rw [WholeTxns, txnPhase_append, ha]
  exact hb

/-- A transaction of 4 or 16 transfers goes through all the phases (R120). -/
theorem wholeTxns_txnEvents (c : Config) {sent recv : List Byte} (h : recv.length = sent.length)
    (hn : sent.length = 4 ∨ sent.length = 16) : WholeTxns c (txnEvents c sent recv) := by
  have hbegin : txnPhase c .outside [.TB ⟨c.P_BUS_MODE, c.P_BUS_CLOCK_HZ⟩, .WR c.P_CS_PIN .LOW] = some (.selected 0) := by
    simp [txnPhase, TxnPhase.next]
  have hend : txnPhase c (.selected (0 + sent.length)) [.WR c.P_CS_PIN .HIGH, .TE] = some .outside := by
    simp [txnPhase, TxnPhase.next, hn]
  rw [WholeTxns, txnEvents, txnPhase_append, txnPhase_append, hbegin, Option.bind_some, txnPhase_transfers c 0 h]
  exact hend

/-- Bring-up has no transaction, with a sync pin or without (R101). -/
theorem wholeTxns_bringup (c : Config) : WholeTxns c (bringupEvents c) := by
  rw [WholeTxns, bringupEvents]
  cases c.P_SYNC_PIN with
  | none => rfl
  | some _ => rfl

theorem BusEvents.wholeTxns {i : Instr} {p : Payload} {evs : List Event} (h : BusEvents i s p evs) : WholeTxns s.cfg evs :=
  h.of_groups (fun _ => wholeTxns_bringup _) rfl (fun _ _ => .append) (fun _ _ => wholeTxns_txnEvents _)
    (fun _ _ => rfl)

/-- `IN_TXN` says where an event leaves the trace (R32). -/
theorem TxnPhase.next_inTxn {e : Event} {inTxn : Bool} (hb : inTxn = true ↔ ph ≠ .outside) (h : ph.next c e = some ph') :
    replayInTxn inTxn [e] = true ↔ ph' ≠ .outside := by
  cases ph with
  | outside =>
    cases e with
    | TB _ =>
      obtain ⟨_, rfl⟩ := by simpa [TxnPhase.next] using h
      simp [replayInTxn]
    | X _ _ | TE => cases h
    | _ => cases h; simpa [replayInTxn] using hb
  | begun =>
    obtain ⟨rfl, rfl⟩ := by simpa [TxnPhase.next] using h
    simpa [replayInTxn] using hb
  | selected k =>
    cases e with
    | X _ _ => cases h; simpa [replayInTxn] using hb
    | WR _ _ =>
      obtain ⟨_, rfl⟩ := by simpa [TxnPhase.next] using h
      simpa [replayInTxn] using hb
    | _ => simp [TxnPhase.next] at h
  | released =>
    obtain ⟨rfl, rfl⟩ := by simpa [TxnPhase.next] using h
    simp [replayInTxn]

theorem txnPhase_inTxn {evs : List Event} {inTxn : Bool} (hb : inTxn = true ↔ ph ≠ .outside)
    (h : txnPhase c ph evs = some ph') : replayInTxn inTxn evs = true ↔ ph' ≠ .outside := by
  induction evs generalizing ph inTxn with
  | nil => cases h; exact hb
  | cons e evs ih =>
    obtain ⟨ph₁, hnext, hrest⟩ := Option.bind_eq_some_iff.1 h
    exact ih (TxnPhase.next_inTxn hb hnext) hrest

/-- The trace keeps the discipline and no transaction is open. -/
def BetweenTxns (s : State) : Prop := WholeTxns s.cfg s.TRACE ∧ s.IN_TXN = false

theorem BetweenTxns.txnInv (h : BetweenTxns s) : TxnInv s := by
  obtain ⟨htrace, htxn⟩ := h
  exact ⟨.outside, htrace, by simp [htxn]⟩

theorem TxnInv.betweenTxns (h : TxnInv s) (htxn : s.IN_TXN = false) : BetweenTxns s := by
  obtain ⟨ph, htrace, hph⟩ := h
  obtain rfl : ph = .outside := by simpa [htxn] using hph
  exact ⟨htrace, htxn⟩

/-- Any beginning of whole transactions, after a trace with none open, stands where `IN_TXN` says. -/
theorem BetweenTxns.txnInv_didAll {evs rest : List Event} (hs : BetweenTxns s) (h : WholeTxns s.cfg (evs ++ rest)) :
    TxnInv (s.didAll evs) := by
  obtain ⟨htrace, htxn⟩ := hs
  rw [WholeTxns, txnPhase_append] at h
  obtain ⟨ph, hph, -⟩ := Option.bind_eq_some_iff.1 h
  refine ⟨ph, ?_, txnPhase_inTxn (by simp [htxn]) hph⟩
  rw [State.didAll_cfg, State.didAll_TRACE, txnPhase_append, htrace]
  exact hph

theorem betweenTxns_leads_to_txnInv : CommandsLead BetweenTxns TxnInv where
  completes := fun _ _ h => h.txnInv
  sentinel := fun _ h => h
  writes := by
    rintro i u v ⟨htrace, htxn⟩ hw
    obtain ⟨ecfg, _, _, _, _, etxn, etrace, _⟩ := hw.frame
    exact ⟨by rwa [ecfg, etrace], etxn.trans htxn⟩
  runs := by
    rintro i p u evs ⟨htrace, htxn⟩ hb
    exact ⟨by simpa using htrace.append hb.wholeTxns, by simpa [htxn] using hb.inTxn htxn⟩
  hangs := fun _ _ _ _ _ hu hb => hu.txnInv_didAll hb.wholeTxns

/-- Settles O55: every event list of a command is made of whole transactions, and a stalled platform leaves a beginning of
one. -/
theorem stepKeepsTxnInv : Obligations.StepKeepsTxnInv := fun _ _ hidle hs h =>
  betweenTxns_leads_to_txnInv.step (fun _ _ => hs) (fun _ _ hb _ => hs.betweenTxns (hidle.2 hb)) h

/-! ## R122 to R126: the commands that move frames -/

/-- Settles O12: `execSendFrame_ran` gives the transaction, and the bytes received in it are all the answers. -/
theorem sendFrameIsOneTransaction : Obligations.SendFrameIsOneTransaction := by
  rintro ra wa dl dh s ⟨hready, hlive⟩
  obtain ⟨_, _, ⟨r, hr, rfl⟩, hans, hexec⟩ := (execSendFrame_ran ra wa dl dh s hready).live hlive
  have hrecv : received (txnEvents s.cfg [ra, wa, dl, dh] r) = r := received_txnEvents _ _ _ hr.symm
  exact ⟨r, hr, hrecv ▸ hans.answeredBy, hexec⟩

/-- A command that ran a read on a platform that completes its actions has read, when its writes, with the end of the command,
are `PB` and `results`. -/
theorem Ran.readCompletes {i : Instr} {lat : List Event → Prop} {a : Byte} {n : Nat} {upd results : Payload → State → State}
    (h : Ran (exec i s) s (IsRead s.cfg lat a n) upd) (hlive : s.STALL = none)
    (hupd : ∀ p u, (upd p u).complete .OK = results p (State.complete { u with PB := some p } .OK)) :
    ReadCompletes i s lat a n results := by
  obtain ⟨p, _, ⟨l, _, hl, rfl, ra, dropped, hra, hd, rfl⟩, hans, hexec⟩ := h.live hlive
  exact ⟨l, ra, dropped, p, hl, hra, hd, hans.answeredBy, hexec.trans (congrArg _ (hupd p _))⟩

/-- A command that only reads: its events are those of the read, and it writes `PB` alone. -/
theorem Ran.plainReadCompletes {i : Instr} {a : Byte} {n : Nat}
    (h : Ran (exec i s) s
      (fun p evs => ∃ ra dropped : List Byte, ra.length = 4 ∧ dropped.length = n ∧ evs = readEvents s.cfg a ra dropped p)
      (fun p u => { u with PB := some p }))
    (hlive : s.STALL = none) : ReadCompletes i s (fun evs => evs = []) a n (fun _ t => t) :=
  (h.mono fun p evs he => ⟨p, ⟨[], evs, rfl, rfl, he⟩, fun _ => rfl⟩).readCompletes hlive fun _ _ => rfl

/-- Settles O13: the read path drops none of the four captured bytes (`execReadFrame_ran`). -/
theorem readFrameCapturesTheSecondTransaction : Obligations.ReadFrameCapturesTheSecondTransaction :=
  fun addr s ⟨hready, hlive⟩ => Ran.plainReadCompletes (execReadFrame_ran addr s hready) hlive

/-- Settles O14: the read path drops the first 12 of the 16 captured bytes (`execReadFrameSettled_ran`). -/
theorem readFrameSettledKeepsTheLastFour : Obligations.ReadFrameSettledKeepsTheLastFour :=
  fun addr s ⟨hready, hlive⟩ => Ran.plainReadCompletes (execReadFrameSettled_ran addr s hready) hlive

end Sys2Proof.Machine

namespace Sys2Proof.Machine

variable {s t : State}

/-! ## R140 to R143: the latch -/

/-- Settles O15: `execLatch_ran` gives the events of one latch, of either strategy, and the command writes no result. -/
theorem latchPulsesOrPushes : Obligations.LatchPulsesOrPushes := by
  rintro s ⟨hready, hlive⟩ hlatch
  obtain ⟨_, evs, hevs, hans, hexec⟩ := (execLatch_ran s hready (latchError_eq_none.2 hlatch)).live hlive
  exact ⟨evs, hevs, hans.answeredBy, hexec⟩

/-- A transaction moves no pin but chip-select (R120). -/
theorem write_not_mem_txnEvents {c : Config} {pin : PinId} (hpin : pin ≠ c.P_CS_PIN) (lvl : Level) (sent recv : List Byte) :
    Event.WR pin lvl ∉ txnEvents c sent recv := by
  have htransfers : Event.WR pin lvl ∉ List.zipWith Event.X sent recv := by
    rw [← List.map_uncurry_zip_eq_zipWith, List.mem_map]
    rintro ⟨_, _, h⟩
    cases h
  simp [txnEvents, htransfers, hpin]

theorem mem_latchingReads {i : Instr} {ch : Byte} :
    i ∈ latchingReads ch ↔ i = .readRms ch ∨ i = .readRmsV ch ∨ i = .readRmsI ch ∨ i = .readPower ch := by
  simp [latchingReads]

/-- The events of a latching read are those of its latch and then two transactions (R198). -/
theorem BusEvents.of_latchingRead {i : Instr} {ch : Byte} {p : Payload} {evs : List Event} (h : BusEvents i s p evs)
    (hi : i ∈ latchingReads ch) :
    ∃ lat a ra dropped, ReadLatch s lat ∧ evs = lat ++ readEvents s.cfg a ra dropped p := by
  have measure : ∀ {q}, IsMeasure s q ch (ReadLatch s) (fun _ => 0) p evs →
      ∃ lat a ra dropped, ReadLatch s lat ∧ evs = lat ++ readEvents s.cfg a ra dropped p := by
    rintro q ⟨_, _, a, _, _, lat, _, hlat, rfl, ra, dropped, _, _, rfl⟩
    exact ⟨lat, a, ra, dropped, hlat, rfl⟩
  obtain rfl | rfl | rfl | rfl := mem_latchingReads.1 hi <;> exact measure h

/-- The latch of a latching read under strategy `PIN`: the pulse, or nothing (R140, R142). -/
theorem ReadLatch.eq_pulse {pin : PinId} {lat : List Event} (h : ReadLatch s lat) (hl : s.cfg.P_LATCH_STRATEGY = .PIN)
    (hp : s.cfg.P_SYNC_PIN = some pin) :
    lat = if s.AUTO_LATCH then [] else [.WR pin .LOW, .DUS 4, .WR pin .HIGH] := by
  unfold ReadLatch at h
  split_ifs at h ⊢
  · exact h
  · simpa [IsLatch, hl, hp] using h

/-- The latching reads write no result without driving the bus. -/
theorem PureWrite.not_latchingRead {i : Instr} {ch : Byte} (h : PureWrite i s t) : i ∉ latchingReads ch := by
  intro hi
  obtain rfl | rfl | rfl | rfl := mem_latchingReads.1 hi <;> exact h

theorem wf_of_latchingRead {i : Instr} {ch : Byte} (hch : legalRmsChannel ch = true) (hi : i ∈ latchingReads ch) :
    i.wf = true := by
  obtain rfl | rfl | rfl | rfl := mem_latchingReads.1 hi <;> exact hch

/-- On a platform that completes its actions a command that raises an error adds no event, and one that succeeds adds none or
one of its complete event lists (R241). -/
theorem exec_status_trace {i : Instr} (hs : s.STALL = none) (h : exec i s = .next t) :
    (t.STATUS ≠ some .OK ∧ t.TRACE = s.TRACE) ∨
    (t.STATUS = some .OK ∧
      ((∃ u, PureWrite i s u) ∧ t.TRACE = s.TRACE ∨ ∃ p evs, BusEvents i s p evs ∧ t.TRACE = s.TRACE ++ evs)) := by
  obtain ⟨c, hc, _, rfl⟩ | ⟨_, rfl⟩ | ⟨u, hu, rfl⟩ | ⟨p, evs, hb, _, _, rfl⟩ | ⟨_, _, _, _, _, _, rfl, h0⟩ := exec_next h
  · exact .inl ⟨by simpa using hc, rfl⟩
  · exact .inl ⟨by simp, rfl⟩
  · obtain ⟨_, _, _, _, _, _, etrace, _⟩ := hu.frame
    exact .inr ⟨rfl, .inl ⟨⟨u, hu⟩, etrace⟩⟩
  · exact .inr ⟨rfl, .inr ⟨p, evs, hb, by simp⟩⟩
  · simp [hs] at h0

/-- A latching read that succeeds has added the events of its latch and then those of its read (R198). -/
theorem trace_of_latchingRead {i : Instr} {ch : Byte} (hi : i ∈ latchingReads ch) (hs : s.STALL = none)
    (h : exec i s = .next t) (hok : t.STATUS = some .OK) :
    ∃ lat a ra dropped p, ReadLatch s lat ∧ t.TRACE = s.TRACE ++ lat ++ readEvents s.cfg a ra dropped p := by
  obtain ⟨herr, _⟩ | ⟨_, ⟨⟨_, hw⟩, _⟩ | ⟨p, _, hb, htrace⟩⟩ := exec_status_trace hs h
  · exact absurd hok herr
  · exact absurd hi hw.not_latchingRead
  · obtain ⟨lat, a, ra, dropped, hlat, rfl⟩ := hb.of_latchingRead hi
    exact ⟨lat, a, ra, dropped, p, hlat, by rw [htrace, List.append_assoc]⟩

/-- Settles O16: a successful read has added its latch and two transactions, which do not move the sync pin; an error is raised
before any action. -/
theorem readsLatchExactlyOnce : Obligations.ReadsLatchExactlyOnce := by
  constructor
  · rintro s ch i pin ⟨hready, hlive⟩ hch hi hl hp hcs
    have hlegal : legalRmsChannel ch = true := by obtain rfl | rfl := hch <;> rfl
    have hlatch : LatchAvailable s.cfg := by simp [LatchAvailable, hp]
    obtain ⟨t, hexec, hok⟩ := exec_endsWith_ok hlive (wf_of_latchingRead hlegal hi) (fun _ => hready) (fun _ => hlatch)
    obtain ⟨lat, a, ra, dropped, p, hlat, htrace⟩ := trace_of_latchingRead hi hlive hexec hok
    refine ⟨t, readEvents s.cfg a ra dropped p, hexec, hok, fun lvl hmem => ?_, hlat.eq_pulse hl hp ▸ htrace⟩
    exact (List.mem_append.1 hmem).elim (write_not_mem_txnEvents hcs _ _ _) (write_not_mem_txnEvents hcs _ _ _)
  · intro s t i hlive hexec herr
    obtain ⟨_, htrace⟩ | ⟨hok, _⟩ := exec_status_trace hlive hexec
    · exact htrace
    · exact absurd hok herr

end Sys2Proof.Machine

namespace Sys2Proof.Machine

/-! ## R9, R150 to R154: the fields of the payload word

The four extraction functions are formulas over the bytes; each is a part of the one word `W`, whose unsigned value is
`field_u32`. -/

/-- The formula of R153 is the unsigned value of the payload word. -/
theorem toNat_payloadWord (b0 b1 b2 b3 : Byte) : (payloadWord b0 b1 b2 b3).toNat = field_u32 ⟨b0, b1, b2, b3⟩ := by
  simp only [payloadWord, field_u32, BitVec.toNat_append, Nat.shiftLeft_or_distrib, ← Nat.shiftLeft_add]

/-- Below bit 15 of the word lie the seven low bits of `b1` and all of `b0` (R150). -/
theorem field_0_14_eq_mod (p : Payload) : field_0_14 p = field_u32 p % 2 ^ 15 := by
  have hb0 : p.b0.toNat % 2 ^ 15 = p.b0.toNat := Nat.mod_eq_of_lt (p.b0.isLt.trans (by norm_num))
  have hb1 : (p.b1.toNat <<< 8) % 2 ^ 15 = (p.b1.toNat &&& 0x7F) <<< 8 := by
    rw [Nat.and_two_pow_sub_one_eq_mod p.b1.toNat 7]
    omega
  have hhigh : (p.b3.toNat <<< 24) % 2 ^ 15 = 0 ∧ (p.b2.toNat <<< 16) % 2 ^ 15 = 0 := by omega
  simp only [field_0_14, field_u32, Nat.or_mod_two_pow, hhigh, hb1, hb0, Nat.zero_or]

/-- The formula of R151 leaves `b0` out and shifts by 7: together a shift of the word by 15. -/
theorem field_15_32_eq_shiftRight (p : Payload) : field_15_32 p = field_u32 p >>> 15 := by
  have hb0 : p.b0.toNat >>> 8 = 0 := Nat.shiftRight_eq_zero _ _ p.b0.isLt
  have hbytes : field_u32 p >>> 8 = p.b3.toNat <<< 16 ||| p.b2.toNat <<< 8 ||| p.b1.toNat := by
    have hshift : p.b3.toNat <<< 24 >>> 8 = p.b3.toNat <<< 16 ∧ p.b2.toNat <<< 16 >>> 8 = p.b2.toNat <<< 8 ∧
        p.b1.toNat <<< 8 >>> 8 = p.b1.toNat := by omega
    simp only [field_u32, Nat.shiftRight_or_distrib, hshift, hb0, Nat.or_zero]
  rw [Nat.shiftRight_add _ 8 7, hbytes, field_15_32]

/-- `sext_32` of R9 is the two's complement value of a 32-bit word. -/
theorem sext32_toNat (w : BitVec 32) : sext32 w.toNat = w.toInt := by
  rw [sext32, BitVec.testBit_toNat, BitVec.toInt_eq_msb_cond, BitVec.msb_eq_getLsbD_last]
  norm_num

theorem toNat_payloadWord_low15 (b0 b1 b2 b3 : Byte) :
    ((payloadWord b0 b1 b2 b3).extractLsb' 0 15).toNat = field_0_14 ⟨b0, b1, b2, b3⟩ := by
  rw [BitVec.extractLsb'_toNat, toNat_payloadWord, Nat.shiftRight_zero, field_0_14_eq_mod]

theorem toNat_payloadWord_high17 (b0 b1 b2 b3 : Byte) :
    ((payloadWord b0 b1 b2 b3).extractLsb' 15 17).toNat = field_15_32 ⟨b0, b1, b2, b3⟩ := by
  have hword := field_u32_lt ⟨b0, b1, b2, b3⟩
  rw [BitVec.extractLsb'_toNat, toNat_payloadWord, field_15_32_eq_shiftRight]
  exact Nat.mod_eq_of_lt (by omega)

theorem toInt_payloadWord (b0 b1 b2 b3 : Byte) : (payloadWord b0 b1 b2 b3).toInt = field_0_28 ⟨b0, b1, b2, b3⟩ := by
  rw [← sext32_toNat, toNat_payloadWord]
  rfl

/-- Settles O17: the string is the encoding of the command, and the number is the low part of the word. -/
theorem field014IsTheLowFifteenBits : Obligations.Field014IsTheLowFifteenBits := by
  intro b0 b1 b2 b3 s
  rw [toNat_payloadWord_low15]
  exact ⟨decode_encode (.field014 b0 b1 b2 b3), rfl⟩

/-- Settles O18: the string is the encoding of the command, and the number is the high part of the word. -/
theorem field1532IsTheHighSeventeenBits : Obligations.Field1532IsTheHighSeventeenBits := by
  intro b0 b1 b2 b3 s
  rw [toNat_payloadWord_high17]
  exact ⟨decode_encode (.field1532 b0 b1 b2 b3), rfl⟩

/-- Settles O19: the string is the encoding of the command, and the number is the word sign-extended. -/
theorem field028IsTheSignedWord : Obligations.Field028IsTheSignedWord := by
  intro b0 b1 b2 b3 s
  rw [toInt_payloadWord]
  exact ⟨decode_encode (.field028 b0 b1 b2 b3), rfl⟩

/-- Settles O20: the string is the encoding of the command, and the number is the word itself. -/
theorem fieldU32IsTheUnsignedWord : Obligations.FieldU32IsTheUnsignedWord := by
  intro b0 b1 b2 b3 s
  rw [toNat_payloadWord]
  exact ⟨decode_encode (.fieldU32 b0 b1 b2 b3), rfl⟩

end Sys2Proof.Machine

namespace Sys2Proof.Machine

variable {s : State}

/-! ## The Conversion Engine (R170 to R176) -/

/-! ### The four formulas in each number domain, for any raw value -/

theorem convV_exact (k : ℚ) (r : Int) : convV .EXACT (.exact k) r = .exact (r * (35484044 / 10 ^ 9) * k) := by
  have hweight : KV = 35484044 / 10 ^ 9 := by norm_num [KV, Rat.mkRat_eq_div]
  simp only [convV, toNum, lit, numMul, hweight]

theorem convI_exact (k : ℚ) (r : Int) : convI .EXACT (.exact k) r = .exact (r / 24 * (2143 / 10 ^ 4) * k) := by
  have hweight : KI = 2143 / 10 ^ 4 := by norm_num [KI, Rat.mkRat_eq_div]
  have hdiv : ((KI_DIV : Int) : ℚ) = 24 := by norm_num [KI_DIV]
  simp only [convI, toNum, lit, numMul, numDiv, hweight, hdiv]

theorem convP_exact (kv ki : ℚ) (r : Int) :
    convP .EXACT (.exact kv) (.exact ki) r = .exact (r * (1217 / 10 ^ 7) * kv * ki) := by
  have hweight : KP = 1217 / 10 ^ 7 := by norm_num [KP, Rat.mkRat_eq_div]
  simp only [convP, toNum, lit, numMul, hweight]

theorem convE_exact (r : Int) : convE .EXACT r = .exact (r * (886162 / 10 ^ 14)) := by
  have hweight : KE = 886162 / 10 ^ 14 := by norm_num [KE, Rat.mkRat_eq_div]
  simp only [convE, toNum, lit, numMul, hweight]

theorem convV_binary32 (b : Word32) (r : Int) :
    convV .BINARY32 (.binary32 b) r = .binary32 (B32.mul (B32.mul (B32.ofRat r) 0x3D1157B8) b) := by
  have hweight : B32.ofRat KV = 0x3D1157B8 := by decide +kernel
  simp only [convV, toNum, lit, numMul, hweight]

theorem convI_binary32 (b : Word32) (r : Int) :
    convI .BINARY32 (.binary32 b) r =
      .binary32 (B32.mul (B32.mul (B32.div (B32.ofRat r) 0x41C00000) 0x3E5B7176) b) := by
  have hweight : B32.ofRat KI = 0x3E5B7176 := by decide +kernel
  have hdiv : B32.ofRat (KI_DIV : Int) = 0x41C00000 := by decide +kernel
  simp only [convI, toNum, lit, numMul, numDiv, hweight, hdiv]

theorem convP_binary32 (bv bi : Word32) (r : Int) :
    convP .BINARY32 (.binary32 bv) (.binary32 bi) r =
      .binary32 (B32.mul (B32.mul (B32.mul (B32.ofRat r) 0x38FF3931) bv) bi) := by
  have hweight : B32.ofRat KP = 0x38FF3931 := by decide +kernel
  simp only [convP, toNum, lit, numMul, hweight]

theorem convE_binary32 (r : Int) : convE .BINARY32 r = .binary32 (B32.mul (B32.ofRat r) 0x32183DD1) := by
  have hweight : B32.ofRat KE = 0x32183DD1 := by decide +kernel
  simp only [convE, toNum, lit, numMul, hweight]

/-! ### What the commands answer -/

theorem exec_convV_ok {ch : Byte} {raw : BitVec 16} {c : Chan} (hr : raw.toNat ≤ 0x7FFF) (hc : chanOf ch = some c) :
    exec (.convV ch raw) s = ok { s with RVAL0 := some (convV s.cfg.P_NUMERICS (s.CAL_V.get c) raw.toNat) } := by
  simp only [exec, execConvV, if_neg (not_lt.2 hr), hc]

theorem exec_convI_ok {ch : Byte} {raw : BitVec 24} {c : Chan} (hr : raw.toNat ≤ 0x1FFFF) (hc : chanOf ch = some c) :
    exec (.convI ch raw) s = ok { s with RVAL0 := some (convI s.cfg.P_NUMERICS (s.CAL_I.get c) raw.toNat) } := by
  simp only [exec, execConvI, if_neg (not_lt.2 hr), hc]

theorem exec_convP_ok {ch : Byte} {raw : BitVec 32} {c : Chan} (hc : chanOf ch = some c) :
    exec (.convP ch raw) s =
      ok { s with RVAL0 := some (convP s.cfg.P_NUMERICS (s.CAL_V.get c) (s.CAL_I.get c) raw.toInt) } := by
  simp only [exec, execConvP, hc, sext32_toNat]

/-- A channel above 2 of a conversion with a legal operand: the sentinel of the domain, and `INVALID_CHANNEL` (R241). -/
theorem exec_of_invalidChannel_sentinel {i : Instr} (ho : illegalOperand i = false) (hc : invalidChannel i = true)
    (hs : leavesSentinel i = true) :
    exec i s = .next { s with
      RVAL0 := some (minusOne s.cfg.P_NUMERICS), STATUS := some .INVALID_CHANNEL, BUSY := false, SEQ := none } := by
  rw [exec_of_invalidChannel ho hc, if_pos hs, ← sentinel_eq_minusOne]
  rfl

theorem legalAnyChannel_eq_false {ch : Byte} (h : 2 < ch.toNat) : legalAnyChannel ch = false :=
  decide_eq_false (not_le.2 h)

/-- Settles O21: the operand check, then the channel check, then `convV` of the channel's entry. -/
theorem convVScalesByTheVoltageWeight : Obligations.ConvVScalesByTheVoltageWeight := by
  refine fun s ch raw => ⟨decode_encode (.convV ch raw), fun hr => exec_of_illegalOperand (decide_eq_true hr),
    fun hr hch => exec_of_invalidChannel_sentinel (decide_eq_false (not_lt.2 hr))
      (by simp [invalidChannel, legalAnyChannel_eq_false hch]) rfl,
    fun k hr hk => ?_⟩
  obtain ⟨c, hc, rfl⟩ := hk.get
  refine ⟨_, exec_convV_ok hr hc, fun q hm hq => ?_, fun b hm hb => ?_⟩
  · rw [hm, hq, convV_exact, Int.cast_natCast]
  · rw [hm, hb, convV_binary32, Int.cast_natCast]

/-- Settles O22: the operand check, then the channel check, then `convI` of the channel's entry. -/
theorem convIScalesByTheCurrentWeight : Obligations.ConvIScalesByTheCurrentWeight := by
  refine fun s ch raw => ⟨decode_encode (.convI ch raw), fun hr => exec_of_illegalOperand (decide_eq_true hr),
    fun hr hch => exec_of_invalidChannel_sentinel (decide_eq_false (not_lt.2 hr))
      (by simp [invalidChannel, legalAnyChannel_eq_false hch]) rfl,
    fun k hr hk => ?_⟩
  obtain ⟨c, hc, rfl⟩ := hk.get
  refine ⟨_, exec_convI_ok hr hc, fun q hm hq => ?_, fun b hm hb => ?_⟩
  · rw [hm, hq, convI_exact, Int.cast_natCast]
  · rw [hm, hb, convI_binary32, Int.cast_natCast]

/-- Settles O23: the channel check, then `convP` of the channel's two entries; `sext_32` is the signed value. -/
theorem convPScalesByThePowerWeight : Obligations.ConvPScalesByThePowerWeight := by
  refine fun s ch raw => ⟨decode_encode (.convP ch raw),
    fun hch => exec_of_invalidChannel_sentinel rfl (by simp [invalidChannel, legalAnyChannel_eq_false hch]) rfl,
    fun kv ki hkv hki => ?_⟩
  obtain ⟨c, hc, rfl⟩ := hkv.get
  obtain ⟨c', hc', rfl⟩ := hki.get
  obtain rfl : c = c' := Option.some.inj (hc.symm.trans hc')
  refine ⟨_, exec_convP_ok hc, fun qv qi hm hv hi => ?_, fun bv bi hm hv hi => ?_⟩
  · rw [hm, hv, hi, convP_exact]
  · rw [hm, hv, hi, convP_binary32]

/-- Settles O24: `convE` takes no entry of the table. -/
theorem convEScalesByTheEnergyWeight : Obligations.ConvEScalesByTheEnergyWeight := by
  refine fun s raw => ⟨decode_encode (.convE raw), _, rfl, fun hm => ?_, fun hm => ?_⟩
  · rw [hm, convE_exact, Int.cast_natCast]
  · rw [hm, convE_binary32, Int.cast_natCast]

/-! ### R174, R176: the formulas under `EXACT` -/

/-- Settles O25: each formula is a product, so its factors can be grouped. -/
theorem exactConversionsObeyTheLaws : Obligations.ExactConversionsObeyTheLaws := by
  simp only [Obligations.ExactConversionsObeyTheLaws, convV_exact, convI_exact, convP_exact, convE_exact, NumVal.exact.injEq]
  refine ⟨fun r => ⟨by ring, by ring, by ring, trivial⟩, fun r k kv ki _ _ _ => ⟨?_, ?_, ?_⟩, fun k kv ki => by simp⟩
  · rintro x rfl; ring
  · rintro x rfl; ring
  · rintro x rfl; ring

/-- Settles O26: a power is its raw value times a positive number. -/
theorem powerHasTheSignOfRaw : Obligations.PowerHasTheSignOfRaw := by
  intro r kv ki x hkv hki hx
  rw [convP_exact, NumVal.exact.injEq] at hx
  have hscale : 0 < 1217 / 10 ^ 7 * kv * ki := by positivity
  have hfactor : x = r * (1217 / 10 ^ 7 * kv * ki) := by rw [← hx]; ring
  refine ⟨?_, ?_, ?_⟩
  · rw [hfactor, mul_pos_iff_of_pos_right hscale, Int.cast_pos]
  · rw [hfactor, ← not_le, mul_nonneg_iff_of_pos_right hscale, not_le, Int.cast_lt_zero]
  · rw [hfactor, mul_eq_zero_iff_right hscale.ne', Int.cast_eq_zero]

/-! ### R175, R197: the energy path does not see the calibration table -/

/-- A state with another calibration table. -/
def State.recalibrate (cv ci : CalRow) (s : State) : State := { s with CAL_V := cv, CAL_I := ci }

variable {cv ci : CalRow}

theorem blind_recalibrate : Blind (State.recalibrate cv ci) where
  cs _ := rfl
  rst _ := rfl
  sync _ := rfl
  strategy _ := rfl
  bus _ := rfl
  stall _ := rfl
  trace _ := rfl
  ic _ := rfl
  perform _ _ := rfl
  changePin _ _ _ := rfl
  begun _ := rfl
  inTxn _ _ := rfl
  answer _ _ := rfl

theorem readPath_recalibrate (n : Nat) (a : Byte) : Flow.Commutes (State.recalibrate cv ci) (readPath n a) :=
  blind_recalibrate.readPath (fun _ _ => rfl) n a

/-- The path is chosen by the channel and the configuration. -/
theorem energyPath_recalibrate (c : Chan) (a : Byte) : Flow.Commutes (State.recalibrate cv ci) (energyPath c a) := by
  intro s
  by_cases h : c = .ch0 ∨ s.cfg.P_ENERGY_CH_PATH = .SETTLED
  · rw [energyPath, energyPath, if_pos h]
    exact (if_pos h).trans (readPath_recalibrate _ a s)
  · rw [energyPath, energyPath, if_neg h]
    exact (if_neg h).trans (readPath_recalibrate _ a s)

theorem readEnergyBody_recalibrate (c : Chan) (a : Byte) :
    Flow.Commutes (State.recalibrate cv ci) (readEnergyBody c a) :=
  (energyPath_recalibrate c a).bind fun _ _ => rfl

/-- `READ_ENERGY` performs no latch, and its checks do not read the table. -/
theorem exec_readEnergy_recalibrate (ch : Byte) (s : State) :
    exec (.readEnergy ch) (s.recalibrate cv ci) = mapNext (State.recalibrate cv ci) (exec (.readEnergy ch) s) := by
  have herr : readError false (s.recalibrate cv ci) = readError false s := rfl
  simp only [exec, execReadEnergy]
  cases hc : readChan .ENERGY ch with
  | none => rw [measureRead_invalid hc, measureRead_invalid hc]; rfl
  | some c =>
    obtain ⟨a, ha⟩ := Option.isSome_iff_exists.1 ((addrOf_isSome s.cfg.P_ADDR_MAP ch .ENERGY).trans (by rw [hc]; rfl))
    have ha' : addrOf (s.recalibrate cv ci).cfg.P_ADDR_MAP ch .ENERGY = some a := ha
    cases hr : readError false s with
    | some e => rw [measureRead_error hc ha hr, measureRead_error hc ha' (herr.trans hr)]; rfl
    | none =>
      have hrun : ∀ u : State, addrOf u.cfg.P_ADDR_MAP ch .ENERGY = some a → readError false u = none →
          measureRead .ENERGY false true ch readEnergyBody u = (readEnergyBody c a u).finish := by
        intro u hu he
        simp only [measureRead, hc, hu, he]
        rfl
      rw [hrun s ha hr, hrun _ ha' (herr.trans hr), readEnergyBody_recalibrate c a s]
      cases readEnergyBody c a s <;> rfl

/-- Settles O39: the read commutes with a change of the table, and `CONV_E` does not read it. -/
theorem energyIgnoresCalibration : Obligations.EnergyIgnoresCalibration := by
  rintro s t i cv ci (⟨ch, rfl⟩ | ⟨raw, rfl⟩) h
  · have hread := exec_readEnergy_recalibrate (cv := cv) (ci := ci) ch s
    rw [h] at hread
    exact hread
  · obtain rfl := Host.Outcome.next.inj h
    rfl

end Sys2Proof.Machine

namespace Sys2Proof.Machine

/-! ## Rounding to binary32 (R171) -/

/-! ### The values of magnitude patterns -/

/-- The value of the lower 31 bits of a pattern, by the layout of R72. The number above the greatest finite pattern, infinity's,
counts as `2 ^ 128`. -/
def B32.magVal (m : ℕ) : ℚ :=
  if m / 2 ^ 23 = 0 then (m % 2 ^ 23 : ℕ) * (2 : ℚ) ^ (-149 : ℤ)
  else (2 ^ 23 + (m % 2 ^ 23 : ℕ)) * (2 : ℚ) ^ (((m / 2 ^ 23 : ℕ) : ℤ) - 150)

/-- A number of at most `2 ^ 24` quanta, below `2 ^ 23` only in the subnormal range, by its exponent above the least one. At
`2 ^ 24` the carry into the exponent field gives the value that belongs there. -/
theorem B32.magVal_scaled {k m : ℕ} (hle : m ≤ 2 ^ 24) (hnorm : k = 0 ∨ 2 ^ 23 ≤ m) :
    B32.magVal (k * 2 ^ 23 + m) = m * (2 : ℚ) ^ ((k : ℤ) - 149) := by
  have field {e f : ℕ} (hf : f < 2 ^ 23) (hm : k * 2 ^ 23 + m = e * 2 ^ 23 + f) :
      (k * 2 ^ 23 + m) / 2 ^ 23 = e ∧ (k * 2 ^ 23 + m) % 2 ^ 23 = f := by omega
  rcases lt_or_ge m (2 ^ 23) with hsub | hge
  · obtain rfl : k = 0 := by omega
    obtain ⟨hdiv, hmod⟩ := field hsub rfl
    rw [B32.magVal, if_pos hdiv, hmod]
    rfl
  rcases hle.lt_or_eq with hlt | rfl
  · obtain ⟨hdiv, hmod⟩ := field (e := k + 1) (f := m - 2 ^ 23) (by omega) (by omega)
    rw [B32.magVal, hdiv, hmod, if_neg (by omega), Nat.cast_sub hge,
      show ((k + 1 : ℕ) : ℤ) - 150 = k - 149 by push_cast; ring]
    push_cast; ring
  · obtain ⟨hdiv, hmod⟩ := field (e := k + 2) (f := 0) (by omega) (by omega)
    rw [B32.magVal, hdiv, hmod, if_neg (by omega), show ((k + 2 : ℕ) : ℤ) - 150 = (k - 149) + 1 by push_cast; ring,
      zpow_add_one₀ two_ne_zero]
    push_cast; ring

theorem B32.magVal_scaled_succ {k m : ℕ} (hlt : m < 2 ^ 24) (hnorm : k = 0 ∨ 2 ^ 23 ≤ m) :
    B32.magVal (k * 2 ^ 23 + m + 1) = (m + 1) * (2 : ℚ) ^ ((k : ℤ) - 149) := by
  rw [Nat.add_assoc, B32.magVal_scaled hlt (hnorm.imp id (by omega)), Nat.cast_add_one]

/-- Every pattern is such a number. -/
theorem B32.exists_scaled (j : ℕ) : ∃ k m, j = k * 2 ^ 23 + m ∧ m < 2 ^ 24 ∧ (k = 0 ∨ 2 ^ 23 ≤ m) := by
  rcases Nat.eq_zero_or_pos (j / 2 ^ 23) with h | h
  · exact ⟨0, j, by omega, by omega, .inl rfl⟩
  · exact ⟨j / 2 ^ 23 - 1, j % 2 ^ 23 + 2 ^ 23, by omega, by omega, .inr (by omega)⟩

/-- Greater patterns have greater values. -/
theorem B32.magVal_strictMono : StrictMono B32.magVal := by
  refine strictMono_nat_of_lt_succ fun j => ?_
  obtain ⟨k, m, rfl, hlt, hnorm⟩ := B32.exists_scaled j
  rw [B32.magVal_scaled hlt.le hnorm, B32.magVal_scaled_succ hlt hnorm]
  exact mul_lt_mul_of_pos_right (lt_add_one _) (by positivity)

theorem B32.magVal_zero : B32.magVal 0 = 0 := by norm_num [B32.magVal]

theorem B32.magVal_nonneg (j : ℕ) : 0 ≤ B32.magVal j :=
  B32.magVal_zero ▸ B32.magVal_strictMono.monotone (Nat.zero_le j)

/-! ### What `roundMag` computes -/

/-- Two to an integer power as the fraction of powers that the model scales by. -/
theorem two_zpow_eq_div (k : ℤ) : (2 : ℚ) ^ k = 2 ^ k.toNat / 2 ^ (-k).toNat := by
  rw [← zpow_natCast, ← zpow_natCast, ← zpow_sub₀ two_ne_zero]
  congr 1
  omega

/-- The scaling of numerator and denominator, as a division by a power of two. -/
theorem scaled_div (n d : ℕ) (k : ℤ) :
    ((n * 2 ^ (-k).toNat : ℕ) : ℚ) / (d * 2 ^ k.toNat : ℕ) = (n : ℚ) / d / 2 ^ k := by
  rw [two_zpow_eq_div]
  push_cast
  field_simp

theorem B32.floorLog2_spec {n d : ℕ} (hn : 0 < n) (hd : 0 < d) :
    (2 : ℚ) ^ B32.floorLog2 n d ≤ n / d ∧ (n : ℚ) / d < 2 ^ (B32.floorLog2 n d + 1) := by
  have hd' : (0 : ℚ) < d := Nat.cast_pos.2 hd
  have log_bounds {x : ℕ} (hx : 0 < x) : (2 : ℚ) ^ (x.log2 : ℤ) ≤ x ∧ (x : ℚ) < 2 ^ ((x.log2 : ℤ) + 1) :=
    ⟨by exact_mod_cast Nat.log2_self_le hx.ne', by exact_mod_cast Nat.lt_log2_self⟩
  obtain ⟨hnl, hnu⟩ := log_bounds hn
  obtain ⟨hdl, hdu⟩ := log_bounds hd
  have htest (k : ℤ) : d * 2 ^ k.toNat ≤ n * 2 ^ (-k).toNat ↔ (2 : ℚ) ^ k ≤ n / d := by
    rw [two_zpow_eq_div, div_le_div_iff₀ (by positivity) hd', ← Nat.cast_le (α := ℚ)]
    push_cast
    rw [mul_comm]
  have hlower : (2 : ℚ) ^ ((n.log2 : ℤ) - d.log2 - 1) ≤ n / d := by
    rw [sub_sub, zpow_sub₀ two_ne_zero]
    exact div_le_div₀ (by positivity) hnl hd' hdu.le
  have hupper : (n : ℚ) / d < 2 ^ ((n.log2 : ℤ) - d.log2 + 1) := by
    rw [sub_add_eq_add_sub, zpow_sub₀ two_ne_zero]
    exact div_lt_div₀ hnu hdl (by positivity) (by positivity)
  simp only [B32.floorLog2, htest]
  split
  · next h => exact ⟨h, hupper⟩
  · next h => exact ⟨hlower, by rw [sub_add_cancel]; exact not_le.1 h⟩

/-- Division with remainder, as a fraction. -/
theorem natCast_div_eq_add_mod_div (a : ℕ) {b : ℕ} (hb : 0 < b) : (a : ℚ) / b = (a / b : ℕ) + (a % b : ℕ) / b := by
  have hb' : (b : ℚ) ≠ 0 := Nat.cast_ne_zero.2 hb.ne'
  rw [div_eq_iff hb', add_mul, div_mul_cancel₀ _ hb']
  exact_mod_cast (Nat.div_add_mod' a b).symm

/-- A number above the pattern `a` goes to `a + 1` when it lies past the midpoint, or on it and `a` is odd. -/
def B32.RoundsUp (x : ℚ) (a : ℕ) : Prop :=
  B32.magVal a + B32.magVal (a + 1) < 2 * x ∨ 2 * x = B32.magVal a + B32.magVal (a + 1) ∧ a % 2 = 1

/-- `p` is the magnitude pattern that a non-negative number rounds to: that of infinity when the rounding is past the finite
ones. -/
def B32.RoundsTo (x : ℚ) (p : ℕ) : Prop :=
  ∃ a, B32.magVal a ≤ x ∧ x < B32.magVal (a + 1) ∧
    (B32.RoundsUp x a → p = min (a + 1) 0x7F800000) ∧ (¬B32.RoundsUp x a → p = min a 0x7F800000)

section quanta

/-! A number in quanta `2 ^ (k - 149)`, with a whole part `m` of 24 bits and a fraction `r / den`. -/

variable {x : ℚ} {k m r den : ℕ} (hx : x = (m + r / den) * (2 : ℚ) ^ ((k : ℤ) - 149)) (hden : 0 < den) (hlt : m < 2 ^ 24)
  (hnorm : k = 0 ∨ 2 ^ 23 ≤ m)

include hx hden hlt hnorm in
theorem B32.around_scaled (hr : r < den) :
    B32.magVal (k * 2 ^ 23 + m) ≤ x ∧ x < B32.magVal (k * 2 ^ 23 + m + 1) := by
  have hquantum : (0 : ℚ) < 2 ^ ((k : ℤ) - 149) := by positivity
  have hfrac : (r : ℚ) / den < 1 := (div_lt_one (Nat.cast_pos.2 hden)).2 (Nat.cast_lt.2 hr)
  rw [B32.magVal_scaled hlt.le hnorm, B32.magVal_scaled_succ hlt hnorm, hx]
  exact ⟨mul_le_mul_of_nonneg_right (le_add_of_nonneg_right (by positivity)) hquantum.le,
    mul_lt_mul_of_pos_right (add_lt_add_right hfrac _) hquantum⟩

include hx hden hlt hnorm in
/-- The fraction decides as half a quantum does. -/
theorem B32.roundsUp_scaled :
    B32.RoundsUp x (k * 2 ^ 23 + m) ↔ den < 2 * r ∨ 2 * r = den ∧ m % 2 = 1 := by
  have hquantum : (0 : ℚ) < 2 ^ ((k : ℤ) - 149) := by positivity
  have hden' : (0 : ℚ) < den := Nat.cast_pos.2 hden
  have hsum : B32.magVal (k * 2 ^ 23 + m) + B32.magVal (k * 2 ^ 23 + m + 1) = (2 * m + 1) * (2 : ℚ) ^ ((k : ℤ) - 149) := by
    rw [B32.magVal_scaled hlt.le hnorm, B32.magVal_scaled_succ hlt hnorm]; ring
  have hdouble : 2 * x = (2 * m + (2 * r : ℕ) / den) * (2 : ℚ) ^ ((k : ℤ) - 149) := by rw [hx]; push_cast; ring
  have hparity : (k * 2 ^ 23 + m) % 2 = m % 2 := by omega
  rw [B32.RoundsUp, hsum, hdouble, mul_lt_mul_iff_left₀ hquantum, add_lt_add_iff_left, one_lt_div hden', Nat.cast_lt,
    mul_left_inj' hquantum.ne', add_right_inj, div_eq_one_iff_eq hden'.ne', Nat.cast_inj, hparity]

end quanta

theorem B32.roundsTo_zero : B32.RoundsTo 0 0 := by
  have hpos : 0 < B32.magVal 1 := B32.magVal_zero ▸ B32.magVal_strictMono Nat.one_pos
  refine ⟨0, B32.magVal_zero.le, hpos, fun h => ?_, fun _ => rfl⟩
  rcases h with h | ⟨_, h⟩
  · rw [B32.magVal_zero] at h; linarith
  · cases h

/-- The scaled quotient has 24 bits, the first of them 0 only with the least exponent. -/
theorem B32.scaled_quotient_bounds {n d k : ℕ} {e : ℤ} (hn : 0 < n) (hd : 0 < d) (he : e = max (B32.floorLog2 n d) (-126))
    (hk : (k : ℤ) = e + 126) :
    n * 2 ^ (-(e - 23)).toNat / (d * 2 ^ (e - 23).toNat) < 2 ^ 24 ∧
      (k = 0 ∨ 2 ^ 23 ≤ n * 2 ^ (-(e - 23)).toNat / (d * 2 ^ (e - 23).toNat)) := by
  obtain ⟨hlog, hlog'⟩ := B32.floorLog2_spec hn hd
  have hquantum : (0 : ℚ) < 2 ^ (e - 23) := by positivity
  rw [← Nat.floor_div_eq_div (K := ℚ), scaled_div, Nat.floor_lt (by positivity), div_lt_iff₀ hquantum,
    Nat.le_floor_iff (by positivity), le_div_iff₀ hquantum]
  constructor
  · calc (n : ℚ) / d < 2 ^ (B32.floorLog2 n d + 1) := hlog'
      _ ≤ 2 ^ (e - 23 + 24) := zpow_le_zpow_right₀ one_le_two (by omega)
      _ = (2 ^ 24 : ℕ) * 2 ^ (e - 23) := by rw [zpow_add₀ two_ne_zero, mul_comm]; norm_num
  · refine or_iff_not_imp_left.2 fun hk0 => ?_
    calc ((2 ^ 23 : ℕ) : ℚ) * 2 ^ (e - 23) = 2 ^ (e - 23 + 23) := by rw [zpow_add₀ two_ne_zero, mul_comm]; norm_num
      _ = 2 ^ B32.floorLog2 n d := by congr 1; omega
      _ ≤ n / d := hlog

/-- `roundMag` divides in quanta and rounds the quotient by its remainder. -/
theorem B32.roundMag_roundsTo (n : ℕ) {d : ℕ} (hd : 0 < d) : B32.RoundsTo (n / d) (B32.roundMag n d) := by
  rcases Nat.eq_zero_or_pos n with rfl | hn
  · simpa [B32.roundMag] using B32.roundsTo_zero
  simp only [B32.roundMag, if_neg hn.ne']
  generalize he : max (B32.floorLog2 n d) (-126) = e
  obtain ⟨k, hk⟩ := Int.eq_ofNat_of_zero_le (show 0 ≤ e + 126 by omega)
  obtain ⟨hlt, hnorm⟩ := B32.scaled_quotient_bounds hn hd he.symm hk.symm
  have hx := scaled_div n d (e - 23)
  rw [hk, Int.toNat_natCast]
  have hden : 0 < d * 2 ^ (e - 23).toNat := by positivity
  generalize n * 2 ^ (-(e - 23)).toNat = num at hlt hnorm hx ⊢
  generalize d * 2 ^ (e - 23).toNat = den at hlt hnorm hx hden ⊢
  have hquanta : (n : ℚ) / d = ((num / den : ℕ) + (num % den : ℕ) / den) * 2 ^ ((k : ℤ) - 149) := by
    rw [← natCast_div_eq_add_mod_div num hden, hx, show (k : ℤ) - 149 = e - 23 by omega, div_mul_cancel₀ _ (by positivity)]
  obtain ⟨hlow, hhigh⟩ := B32.around_scaled hquanta hden hlt hnorm (Nat.mod_lt _ hden)
  refine ⟨k * 2 ^ 23 + num / den, hlow, hhigh, fun h => ?_, fun h => ?_⟩
  · rw [if_pos ((B32.roundsUp_scaled hquanta hden hlt hnorm).1 h), Nat.add_assoc]
  · rw [if_neg (h ∘ (B32.roundsUp_scaled hquanta hden hlt hnorm).2)]

/-! ### Numbers and the patterns they round to -/

section roundsTo

variable {x : ℚ} {p p' : ℕ}

/-- The two patterns around a number are determined by it, and so is its rounding. -/
theorem B32.RoundsTo.unique (h : B32.RoundsTo x p) (h' : B32.RoundsTo x p') : p = p' := by
  obtain ⟨a, hl, hu, hup, hdown⟩ := h
  obtain ⟨a', hl', hu', hup', hdown'⟩ := h'
  have hle : a < a' + 1 := B32.magVal_strictMono.lt_iff_lt.1 (hl.trans_lt hu')
  have hge : a' < a + 1 := B32.magVal_strictMono.lt_iff_lt.1 (hl'.trans_lt hu)
  obtain rfl : a = a' := by omega
  by_cases hr : B32.RoundsUp x a
  · rw [hup hr, hup' hr]
  · rw [hdown hr, hdown' hr]

theorem B32.RoundsTo.le (h : B32.RoundsTo x p) : p ≤ 0x7F800000 := by
  obtain ⟨a, _, _, hup, hdown⟩ := h
  by_cases hr : B32.RoundsUp x a
  · exact hup hr ▸ Nat.min_le_right _ _
  · exact hdown hr ▸ Nat.min_le_right _ _

/-- A value of binary32 rounds to its own pattern. -/
theorem B32.roundsTo_magVal {j : ℕ} (hj : j ≤ 0x7F800000) : B32.RoundsTo (B32.magVal j) j := by
  have hlt := B32.magVal_strictMono (Nat.lt_succ_self j)
  have hdown : ¬B32.RoundsUp (B32.magVal j) j := by
    rintro (h | ⟨h, _⟩) <;> linarith
  exact ⟨j, le_rfl, hlt, fun h => absurd h hdown, fun _ => (Nat.min_eq_left hj).symm⟩

/-- No pattern is nearer than the one rounded to, and another one as near means that this one is even. -/
theorem B32.RoundsTo.nearest (h : B32.RoundsTo x p) (hp : p < 0x7F800000) (j : ℕ) :
    |B32.magVal p - x| ≤ |B32.magVal j - x| ∧ (|B32.magVal p - x| = |B32.magVal j - x| → j ≠ p → p % 2 = 0) := by
  obtain ⟨a, hl, hu, hup, hdown⟩ := h
  have below (hj : j ≤ a) : B32.magVal j ≤ B32.magVal a ∧ |B32.magVal j - x| = x - B32.magVal j := by
    have hle := B32.magVal_strictMono.monotone hj
    exact ⟨hle, by rw [abs_sub_comm]; exact abs_of_nonneg (by linarith)⟩
  have above (hj : a < j) : B32.magVal (a + 1) ≤ B32.magVal j ∧ |B32.magVal j - x| = B32.magVal j - x := by
    have hle := B32.magVal_strictMono.monotone (Nat.succ_le_of_lt hj)
    exact ⟨hle, abs_of_nonneg (by linarith)⟩
  have same : B32.magVal j = B32.magVal p → j = p := fun h => B32.magVal_strictMono.injective h
  by_cases hr : B32.RoundsUp x a
  · obtain rfl : p = a + 1 := by have := hup hr; omega
    have hmid : B32.magVal a + B32.magVal (a + 1) ≤ 2 * x := hr.elim le_of_lt fun h => h.1.ge
    rw [abs_of_nonneg (by linarith : 0 ≤ B32.magVal (a + 1) - x)]
    rcases le_or_gt j a with hj | hj
    · obtain ⟨hle, habs⟩ := below hj
      rw [habs]
      refine ⟨by linarith, fun htie _ => ?_⟩
      have hodd : a % 2 = 1 := (hr.resolve_left (by linarith)).2
      omega
    · obtain ⟨hle, habs⟩ := above hj
      rw [habs]
      exact ⟨by linarith, fun htie hne => absurd (same (by linarith)) hne⟩
  · obtain rfl : p = a := by have := hdown hr; omega
    have hmid : 2 * x ≤ B32.magVal p + B32.magVal (p + 1) := not_lt.1 fun h => hr (.inl h)
    rw [abs_sub_comm, abs_of_nonneg (by linarith : 0 ≤ x - B32.magVal p)]
    rcases le_or_gt j p with hj | hj
    · obtain ⟨hle, habs⟩ := below hj
      rw [habs]
      exact ⟨by linarith, fun htie hne => absurd (same (by linarith)) hne⟩
    · obtain ⟨hle, habs⟩ := above hj
      rw [habs]
      refine ⟨by linarith, fun htie _ => ?_⟩
      have heven : p % 2 ≠ 1 := fun hodd => hr (.inr ⟨by linarith, hodd⟩)
      omega

/-- The midpoint above the greatest finite pattern, which is odd, is where infinity begins. -/
theorem B32.RoundsTo.lt_infinity_iff (h : B32.RoundsTo x p) : p < 0x7F800000 ↔ x < 2 ^ 128 - 2 ^ 103 := by
  have hmax : B32.magVal 0x7F7FFFFF = 2 ^ 128 - 2 ^ 104 := by norm_num [B32.magVal]
  have hinf : B32.magVal 0x7F800000 = 2 ^ 128 := by norm_num [B32.magVal]
  obtain ⟨a, hl, hu, hup, hdown⟩ := h
  have hp : p = min (a + 1) 0x7F800000 ∨ p = min a 0x7F800000 := (em (B32.RoundsUp x a)).imp hup hdown
  rcases lt_trichotomy a 0x7F7FFFFF with ha | rfl | ha
  · have hle : B32.magVal (a + 1) ≤ B32.magVal 0x7F7FFFFF := B32.magVal_strictMono.monotone ha
    exact iff_of_true (by omega) (by linarith)
  · have hr : B32.RoundsUp x 0x7F7FFFFF ↔ 2 ^ 128 - 2 ^ 103 ≤ x := by
      rw [B32.RoundsUp, hmax, hinf, and_iff_left (by norm_num), ← le_iff_lt_or_eq']
      exact ⟨fun h => by linarith, fun h => by linarith⟩
    rw [← not_le (a := (2 : ℚ) ^ 128 - 2 ^ 103), ← hr]
    by_cases h : B32.RoundsUp x 0x7F7FFFFF
    · exact iff_of_false (by have := hup h; omega) (not_not.2 h)
    · exact iff_of_true (by have := hdown h; omega) h
  · have hge : B32.magVal 0x7F800000 ≤ B32.magVal a := B32.magVal_strictMono.monotone ha
    exact iff_of_false (by omega) (by linarith)

end roundsTo

/-! ### Signs -/

/-- The lower 31 bits of a pattern. -/
def B32.mag (b : Word32) : ℕ := b.toNat % 2 ^ 31

theorem B32.isFinite_iff (b : Word32) : B32.isFinite b = true ↔ B32.mag b < 0x7F800000 := by
  rw [B32.isFinite, B32.expo_eq, decide_eq_true_eq, B32.mag]
  omega

theorem B32.binary32Value_eq (b : Word32) :
    binary32Value b = if B32.sign b then -B32.magVal (B32.mag b) else B32.magVal (B32.mag b) := by
  have hs : b.getLsbD 31 = B32.sign b := by simp [B32.sign, BitVec.msb_eq_getLsbD_last]
  have hexpo : B32.mag b / 2 ^ 23 = B32.expo b := by rw [B32.expo_eq, B32.mag]; omega
  have hfrac : B32.mag b % 2 ^ 23 = B32.frac b := by rw [B32.frac_eq, B32.mag]; omega
  simp only [binary32Value, hs, B32.magVal, hexpo, hfrac]
  rfl

theorem B32.abs_binary32Value (b : Word32) : |binary32Value b| = B32.magVal (B32.mag b) := by
  rw [B32.binary32Value_eq, ← abs_of_nonneg (B32.magVal_nonneg (B32.mag b))]
  split <;> simp

theorem B32.sign_eq_of_value_ne_zero {b : Word32} (h : binary32Value b ≠ 0) :
    B32.sign b = decide (binary32Value b < 0) := by
  have hpos : 0 < B32.magVal (B32.mag b) := B32.abs_binary32Value b ▸ abs_pos.2 h
  rw [B32.binary32Value_eq]
  cases B32.sign b <;> simp [hpos, hpos.le]

/-- A pattern is its sign and its magnitude. -/
theorem B32.pack_sign_mag (b : Word32) : B32.pack (B32.sign b) (B32.mag b) = b := by
  have := b.isLt
  apply BitVec.eq_of_toNat_eq
  rw [B32.pack, B32.sign_eq, B32.mag, BitVec.toNat_ofNat]
  simp only [decide_eq_true_eq]
  split <;> omega

theorem B32.mag_pack (neg : Bool) {p : ℕ} (hp : p < 2 ^ 31) : B32.mag (B32.pack neg p) = p := by
  rw [B32.mag, B32.pack, BitVec.toNat_ofNat]
  split <;> omega

theorem B32.sign_pack (neg : Bool) {p : ℕ} (hp : p < 2 ^ 31) : B32.sign (B32.pack neg p) = neg := by
  rw [B32.sign_eq, B32.pack, BitVec.toNat_ofNat]
  cases neg <;> simp <;> omega

theorem B32.getLsbD_zero_pack (neg : Bool) {p : ℕ} (hp : p % 2 = 0) : (B32.pack neg p).getLsbD 0 = false := by
  have heven : (p + if neg then 2 ^ 31 else 0) % 2 = 0 := by split <;> omega
  rw [B32.pack, BitVec.getLsbD_ofNat, Nat.testBit_zero, heven]
  rfl

/-- A rational rounds to the pattern of its sign and of the rounding of its magnitude. -/
theorem B32.ofRat_spec (q : ℚ) : ∃ p, B32.RoundsTo |q| p ∧ B32.ofRat q = B32.pack (decide (q < 0)) p := by
  have habs : |q| = (q.num.natAbs : ℚ) / q.den := by rw [Rat.abs_def, Rat.divInt_eq_div]; rfl
  refine ⟨_, habs ▸ B32.roundMag_roundsTo _ q.den_pos, ?_⟩
  rw [B32.ofRat, decide_eq_decide.2 Rat.num_neg]

theorem B32.ofRat_eq_pack {q : ℚ} {p : ℕ} (h : B32.RoundsTo |q| p) : B32.ofRat q = B32.pack (decide (q < 0)) p := by
  obtain ⟨p', h', heq⟩ := B32.ofRat_spec q
  rw [heq, h'.unique h]

/-- A rounding is finite below the last midpoint and infinity from there on (I6). -/
theorem B32.isFinite_ofRat_iff (q : ℚ) : B32.isFinite (B32.ofRat q) = true ↔ |q| < 2 ^ 128 - 2 ^ 103 := by
  obtain ⟨p, h, heq⟩ := B32.ofRat_spec q
  rw [heq, B32.isFinite_iff, B32.mag_pack _ (by have := h.le; omega), h.lt_infinity_iff]

theorem B32.ofRat_eq_infinity {q : ℚ} (hq : 2 ^ 128 - 2 ^ 103 ≤ |q|) : B32.ofRat q = B32.infinity (decide (q < 0)) := by
  obtain ⟨p, h, heq⟩ := B32.ofRat_spec q
  have hge := mt h.lt_infinity_iff.1 (not_lt.2 hq)
  have hle := h.le
  rw [heq, B32.infinity, show p = 0x7F800000 by omega]

/-- Settles O28: the sign of the infinity is the sign of the rational, which is not 0. -/
theorem roundingOverflowsToInfinity : Obligations.RoundingOverflowsToInfinity := by
  refine fun q => ⟨B32.isFinite_ofRat_iff q, fun h => ?_, fun h => ?_⟩
  · have hpos : 0 ≤ q := le_trans (by norm_num) h
    rw [B32.ofRat_eq_infinity (h.trans (le_abs_self q)), decide_eq_false (not_lt.2 hpos)]
    rfl
  · have hneg : q < 0 := h.trans_lt (by norm_num)
    rw [B32.ofRat_eq_infinity ((le_neg.1 h).trans (neg_le_abs q)), decide_eq_true hneg]
    rfl

/-- The rounding of a number lies as near to it as their magnitudes are to each other. -/
theorem B32.abs_ofRat_sub {q : ℚ} {p : ℕ} (h : B32.RoundsTo |q| p) :
    |binary32Value (B32.ofRat q) - q| = |B32.magVal p - abs q| := by
  have hlt : p < 2 ^ 31 := h.le.trans_lt (by norm_num)
  rw [B32.ofRat_eq_pack h, B32.binary32Value_eq, B32.sign_pack _ hlt, B32.mag_pack _ hlt]
  rcases lt_or_ge q 0 with hq | hq
  · rw [if_pos (decide_eq_true hq), abs_of_neg hq, ← abs_neg]
    congr 1
    ring
  · rw [if_neg (by simpa using hq), abs_of_nonneg hq]

/-- Settles O27: no value lies nearer than its magnitude does. When a magnitude other than the rounding's is as near, the rounding
is even; when only the sign differs, the rational is 0, and so is its rounding. -/
theorem roundingIsToNearestTiesToEven : Obligations.RoundingIsToNearestTiesToEven := by
  intro q b hfin _
  obtain ⟨p, h, heq⟩ := B32.ofRat_spec q
  have hlt : p < 2 ^ 31 := h.le.trans_lt (by norm_num)
  have hp : p < 0x7F800000 := by rwa [heq, B32.isFinite_iff, B32.mag_pack _ hlt] at hfin
  obtain ⟨hnear, htie⟩ := h.nearest hp (B32.mag b)
  have hdist := B32.abs_ofRat_sub h
  have hmag : |B32.magVal (B32.mag b) - abs q| ≤ |binary32Value b - q| :=
    B32.abs_binary32Value b ▸ abs_abs_sub_abs_le (binary32Value b) q
  refine ⟨by linarith, fun hsame hne => ?_⟩
  rw [heq]
  apply B32.getLsbD_zero_pack
  by_cases hj : B32.mag b = p
  · have hopposite : binary32Value b = -binary32Value (B32.ofRat q) := by
      refine (abs_eq_abs.1 ?_).resolve_left hne
      rw [B32.abs_binary32Value, B32.abs_binary32Value, hj, heq, B32.mag_pack _ hlt]
    have hzero : q = 0 := by
      rw [hopposite] at hsame hne
      rcases abs_eq_abs.1 hsame with h' | h'
      · exact absurd (by linarith) hne
      · linarith
    rw [hzero, abs_zero] at h
    rw [h.unique B32.roundsTo_zero]
  · exact htie (by linarith) hj

/-- Settles O29: a finite pattern's magnitude is the rounding of its value's magnitude, and only -0 does not have the sign of its
value. -/
theorem roundingKeepsBinary32Values : Obligations.RoundingKeepsBinary32Values := by
  intro b hfin hb
  have h := B32.roundsTo_magVal (B32.isFinite_iff b |>.1 hfin).le
  rw [← B32.abs_binary32Value] at h
  have hsign : B32.sign b = decide (binary32Value b < 0) := by
    by_cases hzero : binary32Value b = 0
    · have hmag : B32.mag b = 0 := by
        rw [← abs_eq_zero, B32.abs_binary32Value, ← B32.magVal_zero] at hzero
        exact B32.magVal_strictMono.injective hzero
      cases hs : B32.sign b with
      | false => simp [hzero]
      | true => exact absurd (by rw [← B32.pack_sign_mag b, hs, hmag]; rfl) hb
    · exact B32.sign_eq_of_value_ne_zero hzero
  rw [B32.ofRat_eq_pack h, ← hsign, B32.pack_sign_mag]

/-! ### R171: a product or a quotient is rounded once -/

theorem B32.magDen_pos (b : Word32) : 0 < B32.magDen b := by unfold B32.magDen; positivity

/-- The fraction that the operations compute with. -/
theorem B32.abs_value_eq_div (b : Word32) : |binary32Value b| = B32.magNum b / B32.magDen b := by
  rw [← B32.value_eq, B32.value, Rat.mkRat_eq_div, abs_div, Nat.abs_cast]
  congr 1
  split
  · rw [Int.cast_neg, abs_neg, Int.cast_natCast, Nat.abs_cast]
  · rw [Int.cast_natCast, Nat.abs_cast]

theorem B32.not_special {b : Word32} (h : B32.isFinite b = true) : B32.isNaN b = false ∧ B32.isInf b = false := by
  have hexpo : B32.expo b ≠ 255 := of_decide_eq_true h
  exact ⟨decide_eq_false fun h => hexpo h.1, decide_eq_false fun h => hexpo h.1⟩

theorem B32.magNum_pos {b : Word32} (h : binary32Value b ≠ 0) : 0 < B32.magNum b := by
  refine Nat.pos_of_ne_zero fun hzero => h (abs_eq_zero.1 ?_)
  rw [B32.abs_value_eq_div, hzero, Nat.cast_zero, zero_div]

theorem B32.isZero_eq_false {b : Word32} (h : binary32Value b ≠ 0) : B32.isZero b = false := by
  refine decide_eq_false fun ⟨hexpo, hfrac⟩ => (B32.magNum_pos h).ne' ?_
  rw [B32.magNum, B32.significand, if_pos hexpo, hfrac, Nat.zero_mul]

/-- The sign of a product or a quotient. -/
theorem decide_neg_mul {v w : ℚ} (hv : v ≠ 0) (hw : w ≠ 0) :
    decide (v * w < 0) = (decide (v < 0) ^^ decide (w < 0)) := by
  have hflip : 0 < v ↔ ¬v < 0 := by rw [not_lt, hv.symm.le_iff_lt]
  rcases hw.lt_or_gt with hw | hw
  · rw [decide_eq_true hw, Bool.xor_true, ← decide_not, decide_eq_decide, ← hflip]
    simp [mul_neg_iff, hw, hw.not_gt]
  · simp [mul_neg_iff, hw, hw.not_gt]

theorem B32.pack_roundMag {q : ℚ} {n d : ℕ} (hd : 0 < d) (h : |q| = n / d) :
    B32.pack (decide (q < 0)) (B32.roundMag n d) = B32.ofRat q :=
  (B32.ofRat_eq_pack (h ▸ B32.roundMag_roundsTo n hd)).symm

/-- Settles O30: the operations round the fractions of the exact results. -/
theorem binary32OperationsRoundOnce : Obligations.Binary32OperationsRoundOnce := by
  intro a b ha hb hva hvb
  obtain ⟨hnanA, hinfA⟩ := B32.not_special ha
  obtain ⟨hnanB, hinfB⟩ := B32.not_special hb
  have hzero := B32.isZero_eq_false hvb
  have hsign : (B32.sign a ^^ B32.sign b) = decide (binary32Value a * binary32Value b < 0) := by
    rw [B32.sign_eq_of_value_ne_zero hva, B32.sign_eq_of_value_ne_zero hvb, decide_neg_mul hva hvb]
  have hsign' : (B32.sign a ^^ B32.sign b) = decide (binary32Value a / binary32Value b < 0) := by
    rw [hsign, decide_eq_decide, mul_neg_iff, div_neg_iff]
  constructor
  · simp only [B32.mul, hnanA, hinfA, hnanB, hinfB, Bool.or_self, Bool.false_eq_true, if_false, hsign]
    refine B32.pack_roundMag (Nat.mul_pos (B32.magDen_pos a) (B32.magDen_pos b)) ?_
    rw [abs_mul, B32.abs_value_eq_div, B32.abs_value_eq_div, div_mul_div_comm, Nat.cast_mul, Nat.cast_mul]
  · simp only [B32.div, hnanA, hinfA, hnanB, hinfB, hzero, Bool.or_self, Bool.false_eq_true, if_false, hsign']
    refine B32.pack_roundMag (Nat.mul_pos (B32.magDen_pos a) (B32.magNum_pos hvb)) ?_
    rw [abs_div, B32.abs_value_eq_div, B32.abs_value_eq_div, div_div_div_eq, Nat.cast_mul, Nat.cast_mul]

end Sys2Proof.Machine

namespace Sys2Proof.Machine

variable {s t : State}

/-! ## R190 to R192, R198: the address table and invalid channels -/

theorem quantityOf_eq_some {qty : Byte} {q : Quantity} (h : quantityOf qty = some q) :
    (qty = 0 ∧ q = .RMS) ∨ (qty = 1 ∧ q = .POWER) ∨ (qty = 2 ∧ q = .ENERGY) := by
  unfold quantityOf at h
  split_ifs at h with h0 h1 h2
  · exact .inl ⟨h0, (Option.some.inj h).symm⟩
  · exact .inr (.inl ⟨h1, (Option.some.inj h).symm⟩)
  · exact .inr (.inr ⟨h2, (Option.some.inj h).symm⟩)

/-- The rows of the table are the registers that exist: `addrOf` finds the address of each row, and no other. -/
theorem mem_addressTable_of_addrOf {m : AddrMap} {ch qty a : Byte} {q : Quantity} (hq : quantityOf qty = some q)
    (ha : addrOf m ch q = some a) : (ch, qty, a) ∈ addressTable m := by
  have hlegal := isSome_addrOf_of_quantityOf m ch hq
  rw [ha] at hlegal
  obtain ⟨rfl, rfl⟩ | ⟨rfl, rfl⟩ | ⟨rfl, rfl⟩ := quantityOf_eq_some hq
  · obtain rfl | rfl := chan_eq_of_legalRms hlegal.symm <;> obtain rfl := Option.some.inj ha <;> simp [addressTable]
  · obtain rfl | rfl := chan_eq_of_legalRms hlegal.symm <;> obtain rfl := Option.some.inj ha <;> simp [addressTable]
  · obtain rfl | rfl | rfl := chan_eq_of_legalAny hlegal.symm <;> obtain rfl := Option.some.inj ha <;> simp [addressTable]

theorem exec_addrLookup_of_mem {ch qty a : Byte} (h : (ch, qty, a) ∈ addressTable s.cfg.P_ADDR_MAP) :
    exec (.addrLookup ch qty) s = ok { s with RINT := some (a.toNat : Int) } := by
  simp only [addressTable, List.mem_cons, List.not_mem_nil, or_false, Prod.mk.injEq] at h
  obtain ⟨rfl, rfl, rfl⟩ | ⟨rfl, rfl, rfl⟩ | ⟨rfl, rfl, rfl⟩ | ⟨rfl, rfl, rfl⟩ | ⟨rfl, rfl, rfl⟩ | ⟨rfl, rfl, rfl⟩ |
    ⟨rfl, rfl, rfl⟩ := h <;> rfl

/-- Settles O31: a pair with a legal quantity is outside the table exactly when its register does not exist. -/
theorem addrLookupAnswersTheTable : Obligations.AddrLookupAnswersTheTable := by
  refine fun s ch qty => ⟨decode_encode (.addrLookup ch qty), fun a h => exec_addrLookup_of_mem h,
    fun h => exec_of_illegalOperand (decide_eq_true h), fun h hrow => ?_⟩
  obtain ⟨q, hq⟩ := exists_quantityOf h
  have hnone : addrOf s.cfg.P_ADDR_MAP ch q = none :=
    Option.eq_none_iff_forall_ne_some.2 fun a ha => hrow a (mem_addressTable_of_addrOf hq ha)
  simp only [exec, execAddrLookup, hq, hnone, raise_eq]

theorem legalRmsChannel_eq_false {ch : Byte} (h1 : ch.toNat ≠ 1) (h2 : ch.toNat ≠ 2) : legalRmsChannel ch = false :=
  decide_eq_false (not_or.2 ⟨h1, h2⟩)

/-- Settles O47: the channel is checked before anything else, and only `READ_RMS` leaves no sentinel. -/
theorem invalidChannelTouchesNoInterface : Obligations.InvalidChannelTouchesNoInterface := by
  intro s ch h1 h2
  have hrms : (!legalRmsChannel ch) = true := by rw [legalRmsChannel_eq_false h1 h2]; rfl
  refine ⟨fun i hi => ?_, exec_of_invalidChannel rfl hrms, fun h0 => exec_of_invalidChannel_sentinel rfl ?_ rfl⟩
  · simp only [List.mem_cons, List.not_mem_nil, or_false] at hi
    obtain rfl | rfl | rfl := hi <;> exact exec_of_invalidChannel_sentinel rfl hrms rfl
  · simp [invalidChannel, legalAnyChannel_eq_false (show 2 < ch.toNat by omega)]

end Sys2Proof.Machine

namespace Sys2Proof.Machine

variable {s t : State}

/-! ## R193 to R198: the measurement reads -/

/-- The command performs one of its complete event lists and then writes its results, with `OK`. -/
def Runs (i : Instr) (s : State) : Prop :=
  ∃ p evs, BusEvents i s p evs ∧ Answered s evs ∧ exec i s = .next ((busWrite i p (s.didAll evs)).complete .OK)

/-- A command that drives the bus runs when it finds what it needs. -/
theorem exec_runs {i : Instr} (hs : BusUsable s) (hw : i.wf = true)
    (hlatch : needsLatchNow i s = true → LatchAvailable s.cfg) (hbus : ∀ u, ¬PureWrite i s u) :
    Runs i s := by
  obtain ⟨hready, hlive⟩ := hs
  obtain ⟨t, hexec, hok⟩ := exec_endsWith_ok hlive hw (fun _ => hready) hlatch
  obtain ⟨c, hc, _, rfl⟩ | ⟨_, rfl⟩ | ⟨u, hu, rfl⟩ | ⟨p, evs, hb, hans, _, rfl⟩ |
    ⟨_, _, _, _, _, _, rfl, h0⟩ := exec_next hexec
  · exact absurd (Option.some.inj hok) hc
  · cases hok
  · exact absurd hu (hbus u)
  · exact ⟨p, evs, hb, hans, hexec⟩
  · simp [hlive] at h0

theorem latchAvailable_of_latchingRead {i : Instr} {ch : Byte} (hi : i ∈ latchingReads ch)
    (h : s.AUTO_LATCH = true ∨ LatchAvailable s.cfg) : needsLatchNow i s = true → LatchAvailable s.cfg := by
  intro hn
  have hauto : s.AUTO_LATCH = false := by
    obtain rfl | rfl | rfl | rfl := mem_latchingReads.1 hi <;> simpa [needsLatchNow, Instr.op] using hn
  exact h.resolve_left (by simp [hauto])

/-- A command whose complete event lists are those of a measurement read has read, when its writes, on a state with the
configuration and the calibration table of `s`, are `PB` and `results`. -/
theorem readCompletes_of_runs {i : Instr} {q : Quantity} {ch a : Byte} {lat : List Event → Prop} {dropped : Chan → Nat}
    {n : Nat} {results : Payload → State → State}
    (hrun : Runs i s) (hevents : ∀ p evs, BusEvents i s p evs → IsMeasure s q ch lat dropped p evs)
    (hlive : s.STALL = none) (ha : addrOf s.cfg.P_ADDR_MAP ch q = some a)
    (hn : ∀ c, readChan q ch = some c → dropped c = n)
    (hres : ∀ p u, u.cfg = s.cfg → u.CAL_V = s.CAL_V → u.CAL_I = s.CAL_I →
      (busWrite i p u).complete .OK = results p (State.complete { u with PB := some p } .OK)) :
    ReadCompletes i s lat a n results := by
  obtain ⟨p, evs, hb, hans, hexec⟩ := hrun
  obtain ⟨_, c, a', hc, ha', l, _, hl, rfl, ra, d, hra, hd, rfl⟩ := hevents p evs hb
  obtain rfl : a' = a := Option.some.inj (ha'.symm.trans ha)
  refine ⟨l, ra, d, p, hl, hra, hd.trans (hn c hc), hans.answeredBy, hexec.trans ?_⟩
  rw [hres p (s.didAll _) rfl rfl rfl]
  simp [State.complete, State.didAll, hlive]

theorem exec_latchingRead_runs {i : Instr} {ch : Byte} (hi : i ∈ latchingReads ch) (hs : BusUsable s)
    (hch : legalRmsChannel ch = true) (hlatch : s.AUTO_LATCH = true ∨ LatchAvailable s.cfg) :
    Runs i s :=
  exec_runs hs (wf_of_latchingRead hch hi) (latchAvailable_of_latchingRead hi hlatch) fun _ hw => hw.not_latchingRead hi

/-- A latching read on a legal channel, with the latch it needs. -/
theorem latchingRead_readCompletes {i : Instr} {q : Quantity} {ch a : Byte} {results : Payload → State → State}
    (hi : i ∈ latchingReads ch) (hs : BusUsable s) (hlatch : s.AUTO_LATCH = true ∨ LatchAvailable s.cfg)
    (hch : legalRmsChannel ch = true ∧ addrOf s.cfg.P_ADDR_MAP ch q = some a)
    (hevents : ∀ p evs, BusEvents i s p evs → IsMeasure s q ch (ReadLatch s) (fun _ => 0) p evs)
    (hres : ∀ p u, u.cfg = s.cfg → u.CAL_V = s.CAL_V → u.CAL_I = s.CAL_I →
      (busWrite i p u).complete .OK = results p (State.complete { u with PB := some p } .OK)) :
    ReadCompletes i s (ReadLatch s) a 0 results :=
  readCompletes_of_runs (exec_latchingRead_runs hi hs hch.1 hlatch) hevents hs.2 hch.2 (fun _ _ => rfl) hres

theorem CalEntry.get_chanIx {r : CalRow} {ch : Byte} {k : NumVal} (h : CalEntry r ch k) : r.get (chanIx ch) = k := by
  obtain ⟨c, hc, hk⟩ := h.get
  rw [chanIx, hc, Option.getD_some, hk]

/-! The registers of R190 that the reads use, with the legality of their channels. -/

theorem addrOf_rms {m : AddrMap} {ch a : Byte} (h : (ch = 1 ∧ a = m.A_RMS1) ∨ (ch = 2 ∧ a = m.A_RMS2)) :
    legalRmsChannel ch = true ∧ addrOf m ch .RMS = some a := by
  obtain ⟨rfl, rfl⟩ | ⟨rfl, rfl⟩ := h <;> exact ⟨rfl, rfl⟩

theorem addrOf_power {m : AddrMap} {ch a : Byte} (h : (ch = 1 ∧ a = m.A_PWR1) ∨ (ch = 2 ∧ a = m.A_PWR2)) :
    legalRmsChannel ch = true ∧ addrOf m ch .POWER = some a := by
  obtain ⟨rfl, rfl⟩ | ⟨rfl, rfl⟩ := h <;> exact ⟨rfl, rfl⟩

/-- Settles O32: both results are written from the one payload of its event list. -/
theorem readRmsReadsBothFieldsOfOneFrame : Obligations.ReadRmsReadsBothFieldsOfOneFrame := by
  intro s ch a kv ki hs hlatch hch hkv hki
  refine latchingRead_readCompletes (by simp [latchingReads]) hs hlatch (addrOf_rms hch) (fun _ _ h => h)
    fun p u hcfg hv hi => ?_
  simp only [busWrite, hcfg, hv, hi, hkv.get_chanIx, hki.get_chanIx]
  rfl

/-- Settles O33: as O32, with the voltage alone. -/
theorem readRmsVReadsTheVoltage : Obligations.ReadRmsVReadsTheVoltage := by
  intro s ch a kv hs hlatch hch hkv
  refine latchingRead_readCompletes (by simp [latchingReads]) hs hlatch (addrOf_rms hch) (fun _ _ h => h)
    fun p u hcfg hv _ => ?_
  simp only [busWrite, hcfg, hv, hkv.get_chanIx]
  rfl

/-- Settles O34: as O32, with the current alone. -/
theorem readRmsIReadsTheCurrent : Obligations.ReadRmsIReadsTheCurrent := by
  intro s ch a ki hs hlatch hch hki
  refine latchingRead_readCompletes (by simp [latchingReads]) hs hlatch (addrOf_rms hch) (fun _ _ h => h)
    fun p u hcfg _ hi => ?_
  simp only [busWrite, hcfg, hi, hki.get_chanIx]
  rfl

/-- Settles O35: the power register of the channel, and both multipliers of the channel. -/
theorem readPowerReadsTheSignedPower : Obligations.ReadPowerReadsTheSignedPower := by
  intro s ch a kv ki hs hlatch hch hkv hki
  refine latchingRead_readCompletes (by simp [latchingReads]) hs hlatch (addrOf_power hch) (fun _ _ h => h)
    fun p u hcfg hv hi => ?_
  simp only [busWrite, hcfg, hv, hi, hkv.get_chanIx, hki.get_chanIx]
  rfl

/-- The register, and the number of bytes that the path of the channel drops (R197). -/
theorem addrOf_energy {cfg : Config} {ch a : Byte} {n : Nat}
    (h : (ch = 0 ∧ a = cfg.P_ADDR_MAP.A_ENT ∧ n = 12) ∨
      (((ch = 1 ∧ a = cfg.P_ADDR_MAP.A_EN1) ∨ (ch = 2 ∧ a = cfg.P_ADDR_MAP.A_EN2)) ∧
        n = if cfg.P_ENERGY_CH_PATH = .SETTLED then 12 else 0)) :
    legalAnyChannel ch = true ∧ addrOf cfg.P_ADDR_MAP ch .ENERGY = some a ∧
      ∀ c, readChan .ENERGY ch = some c → energyDropped cfg c = n := by
  obtain ⟨rfl, rfl, rfl⟩ | ⟨⟨rfl, rfl⟩ | ⟨rfl, rfl⟩, rfl⟩ := h <;>
    exact ⟨rfl, rfl, fun c hc => by obtain rfl := Option.some.inj hc; simp [energyDropped]⟩

theorem exec_readEnergy_runs {ch : Byte} (hs : BusUsable s) (hch : legalAnyChannel ch = true) :
    Runs (.readEnergy ch) s :=
  exec_runs hs hch (fun h => by simp [needsLatchNow, Instr.op] at h) fun _ h => h

/-- Settles O36: the energy read performs no latch, and its path is chosen by the channel and the configuration. -/
theorem readEnergyTakesItsPath : Obligations.ReadEnergyTakesItsPath := by
  intro s ch a n hs hch
  obtain ⟨hlegal, ha, hn⟩ := addrOf_energy hch
  refine readCompletes_of_runs (exec_readEnergy_runs hs hlegal) (fun _ _ h => h) hs.2 ha hn fun p u hcfg _ _ => ?_
  simp only [busWrite, hcfg]
  rfl

end Sys2Proof.Machine

namespace Sys2Proof.Machine

variable {s t : State}

/-! ## R199: an all-zero bus -/

/-! ### The conversions of zero -/

theorem B32.roundMag_zero (d : Nat) : B32.roundMag 0 d = 0 := if_pos rfl

theorem B32.classify_zero : B32.isNaN 0 = false ∧ B32.isInf 0 = false ∧ B32.sign 0 = false ∧ B32.magNum 0 = 0 := by decide

theorem B32.zero_mul {b : Word32} (h : positiveFinite b = true) : B32.mul 0 b = 0 := by
  obtain ⟨hnan, hinf, _⟩ := B32.classify_positive h
  obtain ⟨_, _, hsign⟩ := positiveFinite_fields h
  obtain ⟨hnan0, hinf0, hsign0, hmag0⟩ := B32.classify_zero
  simp only [B32.mul, hnan, hinf, hsign, hnan0, hinf0, hsign0, hmag0, Nat.zero_mul, B32.roundMag_zero, Bool.or_self,
    Bool.false_eq_true, if_false]
  rfl

theorem B32.zero_div {b : Word32} (h : positiveFinite b = true) : B32.div 0 b = 0 := by
  obtain ⟨hnan, hinf, hnonzero⟩ := B32.classify_positive h
  obtain ⟨_, _, hsign⟩ := positiveFinite_fields h
  obtain ⟨hnan0, hinf0, hsign0, hmag0⟩ := B32.classify_zero
  simp only [B32.div, hnan, hinf, hnonzero, hsign, hnan0, hinf0, hsign0, hmag0, Nat.zero_mul, B32.roundMag_zero, Bool.or_self,
    Bool.false_eq_true, if_false]
  rfl

variable {m : Numerics} {k : NumVal}

theorem numMul_zeroOf (hk : GoodMultiplier m k) : numMul (zeroOf m) k = zeroOf m := by
  cases m with
  | EXACT => obtain ⟨q, rfl, _⟩ := hk.exact; exact congrArg NumVal.exact (zero_mul q)
  | BINARY32 => obtain ⟨b, rfl, hb⟩ := hk.binary32; exact congrArg NumVal.binary32 (B32.zero_mul hb)

theorem numDiv_zeroOf (hk : GoodMultiplier m k) : numDiv (zeroOf m) k = zeroOf m := by
  cases m with
  | EXACT => obtain ⟨q, rfl, _⟩ := hk.exact; exact congrArg NumVal.exact (zero_div q)
  | BINARY32 => obtain ⟨b, rfl, hb⟩ := hk.binary32; exact congrArg NumVal.binary32 (B32.zero_div hb)

theorem toNum_zero (m : Numerics) : toNum m 0 = zeroOf m := by
  cases m with
  | EXACT => rfl
  | BINARY32 => exact congrArg NumVal.binary32 (by decide +kernel)

theorem convV_zero (hk : GoodMultiplier m k) : convV m k 0 = zeroOf m := by
  rw [convV, toNum_zero, numMul_zeroOf (goodMultiplier_KV m), numMul_zeroOf hk]

theorem convI_zero (hk : GoodMultiplier m k) : convI m k 0 = zeroOf m := by
  rw [convI, toNum_zero, numDiv_zeroOf (goodMultiplier_KI_DIV m), numMul_zeroOf (goodMultiplier_KI m), numMul_zeroOf hk]

theorem convP_zero {kv ki : NumVal} (hkv : GoodMultiplier m kv) (hki : GoodMultiplier m ki) : convP m kv ki 0 = zeroOf m := by
  rw [convP, toNum_zero, numMul_zeroOf (goodMultiplier_KP m), numMul_zeroOf hkv, numMul_zeroOf hki]

theorem convE_zero (m : Numerics) : convE m 0 = zeroOf m := by
  rw [convE, toNum_zero, numMul_zeroOf (goodMultiplier_KE m)]

/-! ### The payload of a read -/

/-- A list of bytes that the script answered is a beginning of the script, when the script is long enough (R128). -/
theorem AnsweredBy.eq_take {ic r : List Byte} (h : AnsweredBy ic r) (hlen : r.length ≤ ic.length) : r = ic.take r.length :=
  (List.IsPrefix.eq_of_length h (by simpa using hlen)).symm

theorem AnsweredBy.eq_zero_of_mem {n : Nat} {r : List Byte} {b : Byte} (h : AnsweredBy (List.replicate n 0x00) r)
    (hlen : r.length ≤ n) (hb : b ∈ r) : b = 0x00 := by
  rw [h.eq_take (by simpa using hlen)] at hb
  exact List.eq_of_mem_replicate (List.mem_of_mem_take hb)

theorem received_readEvents {c : Config} {a : Byte} {ra dropped : List Byte} {p : Payload} (hra : ra.length = 4) :
    received (readEvents c a ra dropped p) = ra ++ (dropped ++ p.bytes) := by
  rw [readEvents, received_append, received_txnEvents _ _ _ (by rw [hra]; rfl), received_txnEvents]
  simp [Payload.bytes]

theorem IsLatch.length_received_le {c : Config} {evs : List Event} (h : IsLatch c evs) : (received evs).length ≤ 4 := by
  unfold IsLatch at h
  split at h
  · exact h.elim
  · subst h; exact Nat.zero_le _
  · obtain ⟨r, hr, rfl⟩ := h
    rw [received_txnEvents _ _ _ (by rw [hr]; rfl), hr]

theorem ReadLatch.length_received_le {evs : List Event} (h : ReadLatch s evs) : (received evs).length ≤ 4 := by
  unfold ReadLatch at h
  split at h
  · subst h; decide
  · exact h.length_received_le

/-- With at most 4 transfers for the latch and at most 12 dropped bytes a read has at most 24 transfers, so an all-zero script of
that length answers them all. -/
theorem IsMeasure.payload_eq_zero {q : Quantity} {ch : Byte} {lat : List Event → Prop} {dropped : Chan → Nat} {n : Nat}
    {p : Payload} {evs : List Event} (h : IsMeasure s q ch lat dropped p evs)
    (hlat : ∀ l, lat l → (received l).length ≤ 4) (hdropped : ∀ c, dropped c ≤ 12)
    (hans : Answered s evs) (hn : 24 ≤ n) (hic : s.IC = List.replicate n 0x00) : p = ⟨0x00, 0x00, 0x00, 0x00⟩ := by
  obtain ⟨_, c, a, _, _, l, _, hl, rfl, ra, d, hra, hd, rfl⟩ := h
  have hrec : received (l ++ readEvents s.cfg a ra d p) = received l ++ (ra ++ (d ++ p.bytes)) := by
    rw [received_append, received_readEvents hra]
  have hlen : (received (l ++ readEvents s.cfg a ra d p)).length ≤ n := by
    have hl4 := hlat l hl
    have hd12 := hdropped c
    simp only [hrec, List.length_append, Payload.bytes, List.length_cons, List.length_nil]
    omega
  have hzero : ∀ b ∈ p.bytes, b = 0x00 := fun b hb =>
    (hic ▸ hans.answeredBy).eq_zero_of_mem hlen (by rw [hrec]; simp [hb])
  obtain ⟨b0, b1, b2, b3⟩ := p
  obtain ⟨rfl, rfl, rfl, rfl⟩ : b0 = 0x00 ∧ b1 = 0x00 ∧ b2 = 0x00 ∧ b3 = 0x00 := by simpa [Payload.bytes] using hzero
  rfl

/-! ### The results -/

/-- The measurement reads of a channel. -/
def IsMeasureRead (i : Instr) (ch : Byte) : Prop := i ∈ latchingReads ch ∨ i = .readEnergy ch

theorem BusEvents.payload_eq_zero {i : Instr} {ch : Byte} {p : Payload} {evs : List Event} {n : Nat} (h : BusEvents i s p evs)
    (hi : IsMeasureRead i ch) (hans : Answered s evs) (hn : 24 ≤ n) (hic : s.IC = List.replicate n 0x00) :
    p = ⟨0x00, 0x00, 0x00, 0x00⟩ := by
  obtain hi | rfl := hi
  · have hlat : ∀ l, ReadLatch s l → (received l).length ≤ 4 := fun _ => ReadLatch.length_received_le
    obtain rfl | rfl | rfl | rfl := mem_latchingReads.1 hi <;>
      exact IsMeasure.payload_eq_zero h hlat (fun _ => Nat.zero_le _) hans hn hic
  · exact IsMeasure.payload_eq_zero h (by rintro _ rfl; decide) (fun c => by unfold energyDropped; split <;> omega) hans hn hic

/-- A zero payload has zero fields, and each conversion of zero is zero. -/
theorem busWrite_zero_RVAL0 {i : Instr} {ch : Byte} (hi : IsMeasureRead i ch) (hcal : CalInv s) :
    (busWrite i ⟨0x00, 0x00, 0x00, 0x00⟩ s).RVAL0 = some (zeroOf s.cfg.P_NUMERICS) := by
  have hv := hcal.voltage (chanIx ch)
  have hc := hcal.current (chanIx ch)
  obtain hi | rfl := hi
  · obtain rfl | rfl | rfl | rfl := mem_latchingReads.1 hi
    · exact congrArg some (convV_zero hv)
    · exact congrArg some (convV_zero hv)
    · exact congrArg some (convI_zero hc)
    · exact congrArg some (convP_zero hv hc)
  · exact congrArg some (convE_zero _)

theorem busWrite_zero_RVAL1 (ch : Byte) (hcal : CalInv s) :
    (busWrite (.readRms ch) ⟨0x00, 0x00, 0x00, 0x00⟩ s).RVAL1 = some (zeroOf s.cfg.P_NUMERICS) :=
  congrArg some (convI_zero (hcal.current (chanIx ch)))

/-- A measurement read that runs on an all-zero bus. -/
theorem zeroBus_result {i : Instr} {ch : Byte} {n : Nat} (hi : IsMeasureRead i ch) (hcal : CalInv s) (hn : 24 ≤ n)
    (hic : s.IC = List.replicate n 0x00)
    (hrun : Runs i s) :
    ∃ t, exec i s = .next t ∧ t.STATUS = some .OK ∧ t.RVAL0 = some (zeroOf s.cfg.P_NUMERICS) ∧
      (i = .readRms 1 ∨ i = .readRms 2 → t.RVAL1 = some (zeroOf s.cfg.P_NUMERICS)) := by
  obtain ⟨p, evs, hb, hans, hexec⟩ := hrun
  obtain rfl := hb.payload_eq_zero hi hans hn hic
  refine ⟨_, hexec, rfl, busWrite_zero_RVAL0 (s := s.didAll evs) hi hcal, ?_⟩
  rintro (rfl | rfl) <;> exact busWrite_zero_RVAL1 (s := s.didAll evs) _ hcal

/-- Settles O37: every byte of the captured payload is zero, and so is what is made of it. -/
theorem zeroBusReadsZero : Obligations.ZeroBusReadsZero := by
  intro s n hs hcal hlatch hn hic i hi
  simp only [List.mem_append, List.mem_cons, List.not_mem_nil, or_false] at hi
  obtain (h | h) | rfl | rfl | rfl := hi
  · exact zeroBus_result (.inl h) hcal hn hic (exec_latchingRead_runs h hs rfl hlatch)
  · exact zeroBus_result (.inl h) hcal hn hic (exec_latchingRead_runs h hs rfl hlatch)
  all_goals exact zeroBus_result (.inr rfl) hcal hn hic (exec_readEnergy_runs hs rfl)

end Sys2Proof.Machine

namespace Sys2Proof.Machine

/-! ## R66, R200: no command reads the payload buffer -/

/-- A state with another payload in `PB`. -/
def State.withPayload (pb : Option Payload) (s : State) : State := { s with PB := pb }

variable {pb : Option Payload}

theorem blind_withPayload : Blind (State.withPayload pb) where
  cs _ := rfl
  rst _ := rfl
  sync _ := rfl
  strategy _ := rfl
  bus _ := rfl
  stall _ := rfl
  trace _ := rfl
  ic _ := rfl
  perform _ _ := rfl
  changePin _ _ _ := rfl
  begun _ := rfl
  inTxn _ _ := rfl
  answer _ _ := rfl

/-- A sequence that does not read `PB`: with another payload there its result is the same, when it writes `PB`, or the same but
for `PB`. -/
def Flow.Forgets {α : Type} (pb : Option Payload) (f : State → Flow α) : Prop :=
  ∀ s, f (s.withPayload pb) = f s ∨ f (s.withPayload pb) = (f s).mapState (State.withPayload pb)

/-- The same of a whole command. -/
def ForgetsPayload (pb : Option Payload) (k : State → Outcome) : Prop :=
  ∀ s, k (s.withPayload pb) = k s ∨ k (s.withPayload pb) = mapNext (State.withPayload pb) (k s)

theorem Flow.Commutes.forgets {α : Type} {f : State → Flow α} (h : Flow.Commutes (State.withPayload pb) f) :
    Flow.Forgets pb f := fun s => .inr (h s)

theorem Flow.Forgets.bind {α β : Type} {f : State → Flow α} {k : α → State → Flow β} (hf : Flow.Forgets pb f)
    (hk : ∀ a, Flow.Forgets pb (k a)) : Flow.Forgets pb (fun s => (f s).andThen k) := by
  intro s
  show (f (s.withPayload pb)).andThen k = (f s).andThen k ∨
    (f (s.withPayload pb)).andThen k = ((f s).andThen k).mapState (State.withPayload pb)
  rcases hf s with h | h
  · exact .inl (by rw [h])
  · rw [h]
    cases f s with
    | on a t => exact hk a t
    | hung t => exact .inr rfl

/-- A read either overwrites `PB` or hangs before it (R123, R125). -/
theorem readPath_forgets (n : Nat) (a : Byte) : Flow.Forgets pb (readPath n a) :=
  (blind_withPayload.sendf _).forgets.bind fun _ => (blind_withPayload.txn _).forgets.bind fun _ _ => .inl rfl

/-- Results that do not depend on `PB` are written alike whatever it holds. -/
theorem write_forgets {w : State → State} (h : ∀ s, w (s.withPayload pb) = (w s).withPayload pb) :
    Flow.Forgets pb (fun s => .on () (w s)) := fun s => .inr (congrArg (Flow.on ()) (h s))

/-- A read and then results that do not depend on `PB`. -/
theorem readPath_write_forgets (n : Nat) (a : Byte) {w : Payload → State → State}
    (hw : ∀ p s, w p (s.withPayload pb) = (w p s).withPayload pb) :
    Flow.Forgets pb (fun s => (readPath n a s).andThen fun p u => .on () (w p u)) :=
  (readPath_forgets n a).bind fun p => write_forgets (hw p)

theorem Flow.Forgets.finish {k : State → Flow Unit} (h : Flow.Forgets pb k) : ForgetsPayload pb (fun s => (k s).finish) := by
  intro s
  refine (h s).imp (congrArg Flow.finish) fun hs => ?_
  show (k (s.withPayload pb)).finish = mapNext (State.withPayload pb) (k s).finish
  rw [hs]
  cases k s <;> rfl

/-- The checks of a command do not read `PB`, so the command does not when its actions do not. -/
theorem refuseOrRun_forgets {e : State → Option Status} (he : ∀ s, e (s.withPayload pb) = e s) {k : State → Flow Unit}
    (h : Flow.Forgets pb k) : ForgetsPayload pb (fun s => match e s with | some c => raise c s | none => (k s).finish) := by
  intro s
  simp only [he]
  cases e s with
  | some c => exact .inr rfl
  | none => exact h.finish s

theorem latchIfNeeded_forgets (latches : Bool) : Flow.Forgets pb (latchIfNeeded latches) := by
  intro s
  have hn : needsLatch latches (s.withPayload pb) = needsLatch latches s := rfl
  unfold latchIfNeeded
  rw [hn]
  split
  · exact .inr (blind_withPayload.latchSeq s)
  · exact .inr rfl

theorem energyPath_forgets (c : Chan) (a : Byte) : Flow.Forgets pb (energyPath c a) := by
  intro s
  have hp : (s.withPayload pb).cfg = s.cfg := rfl
  unfold energyPath
  rw [hp]
  split
  · exact readPath_forgets _ a s
  · exact readPath_forgets _ a s

theorem measureRead_forgets (q : Quantity) (latches sent : Bool) (ch : Byte) {body : Chan → Byte → State → Flow Unit}
    (hb : ∀ c a, Flow.Forgets pb (body c a)) : ForgetsPayload pb (measureRead q latches sent ch body) := by
  intro s
  have hm : (s.withPayload pb).cfg = s.cfg := rfl
  unfold measureRead
  rw [hm]
  split
  · exact refuseOrRun_forgets (e := readError latches) (fun _ => rfl)
      ((latchIfNeeded_forgets latches).bind fun _ => hb _ _) s
  · cases sent <;> exact .inr rfl

theorem exec_forgets (i : Instr) : ForgetsPayload pb (exec i) := by
  cases i
  case init =>
    exact Flow.Forgets.finish (blind_withPayload.bringup.forgets.bind fun _ => write_forgets fun _ => rfl)
  case sendFrame => exact refuseOrRun_forgets (e := readyError) (fun _ => rfl) (blind_withPayload.sendf _).forgets
  case readFrame =>
    exact refuseOrRun_forgets (e := readyError) (fun _ => rfl) (readPath_write_forgets _ _ fun _ _ => rfl)
  case readFrameSettled =>
    exact refuseOrRun_forgets (e := readyError) (fun _ => rfl) (readPath_write_forgets _ _ fun _ _ => rfl)
  case latch =>
    exact refuseOrRun_forgets (e := fun s => firstError [readyError s, latchError s.cfg]) (fun _ => rfl)
      blind_withPayload.latchSeq.forgets
  case readRms => exact measureRead_forgets _ _ _ _ fun _ _ => readPath_write_forgets _ _ fun _ _ => rfl
  case readRmsV => exact measureRead_forgets _ _ _ _ fun _ _ => readPath_write_forgets _ _ fun _ _ => rfl
  case readRmsI => exact measureRead_forgets _ _ _ _ fun _ _ => readPath_write_forgets _ _ fun _ _ => rfl
  case readPower => exact measureRead_forgets _ _ _ _ fun _ _ => readPath_write_forgets _ _ fun _ _ => rfl
  case readEnergy =>
    exact measureRead_forgets _ _ _ _ fun _ _ => (energyPath_forgets _ _).bind fun _ => write_forgets fun _ => rfl
  all_goals intro s; right; simp only [exec]
  case addrLookup ch qty =>
    have hm : (s.withPayload pb).cfg = s.cfg := rfl
    unfold execAddrLookup
    rw [hm]
    split
    · rfl
    · split <;> rfl
  case setCal => unfold execSetCal; split <;> rfl
  case setAutoLatch => unfold execSetAutoLatch; split <;> rfl
  case setCrc => unfold execSetCrc; split <;> rfl
  case convV =>
    unfold execConvV
    split
    · rfl
    · split <;> rfl
  case convI =>
    unfold execConvI
    split
    · rfl
    · split <;> rfl
  case convP => unfold execConvP; split <;> rfl
  all_goals rfl

/-- Settles O38: a command that completes a read has overwritten `PB`, and every other outcome keeps it. -/
theorem noCommandReadsAnEarlierPayload : Obligations.NoCommandReadsAnEarlierPayload := by
  intro i s t pb h
  have hf := exec_forgets (pb := pb) i s
  rw [h] at hf
  exact hf

end Sys2Proof.Machine

namespace Sys2Proof.Machine

variable {s : State}

/-! ## R220 to R224: the handle setters -/

/-! ### `SET_CAL` -/

theorem exec_setCal_ok {kv ki : BitVec 32} (hv : positiveFinite kv = true) (hi : positiveFinite ki = true) :
    exec (.setCal kv ki) s = ok { s with
      CAL_V := CalRow.uniform (num32 s.cfg.P_NUMERICS kv), CAL_I := CalRow.uniform (num32 s.cfg.P_NUMERICS ki) } := by
  rw [exec, execSetCal, hv, hi]; rfl

theorem num32_of_exact {m : Numerics} (x : Word32) (h : m = .EXACT) : num32 m x = .exact (binary32Value x) := by
  rw [h, ← B32.value_eq]; rfl

theorem num32_of_binary32 {m : Numerics} (x : Word32) (h : m = .BINARY32) : num32 m x = .binary32 x := by
  rw [h]; rfl

/-- Settles O40: as unsigned numbers, the accepted patterns are those that are strictly positive and finite. -/
theorem setCalAcceptsPositiveFinite : Obligations.SetCalAcceptsPositiveFinite := by
  intro s kv ki
  refine ⟨decode_encode (.setCal kv ki), fun ⟨hv, hi⟩ => ?_, fun hbad => ?_⟩
  · exact ⟨_, _, exec_setCal_ok ((positiveFinite_iff kv).2 hv) ((positiveFinite_iff ki).2 hi),
      fun hm => ⟨num32_of_exact kv hm, num32_of_exact ki hm⟩, fun hm => ⟨num32_of_binary32 kv hm, num32_of_binary32 ki hm⟩⟩
  · refine exec_of_invalidCal (i := .setCal kv ki) ?_
    simpa only [invalidCal, legalMultiplier, Bool.not_eq_true', Bool.and_eq_false_iff, decide_eq_false_iff_not,
      ← not_and_or] using hbad

/-! ### The flag setters -/

theorem flagOf_of_legal {flag : Byte} (h : flag = 0x00 ∨ flag = 0x01) : flagOf flag = some (decide (flag = 0x01)) := by
  obtain rfl | rfl := h <;> rfl

/-- Settles O41: the flag byte selects a value, or the command is refused by its operand. -/
theorem flagSettersWriteTheirFlag : Obligations.FlagSettersWriteTheirFlag := by
  intro s flag
  refine ⟨decode_encode (.setAutoLatch flag), decode_encode (.setCrc flag), fun hlegal => ?_, fun hbad => ?_⟩
  · have hflag := flagOf_of_legal hlegal
    constructor
    · rw [exec, execSetAutoLatch, hflag]; rfl
    · rw [exec, execSetCrc, hflag]; rfl
  · have hflag : decide (1 < flag.toNat) = true := decide_eq_true hbad
    exact ⟨exec_of_illegalOperand (i := .setAutoLatch flag) hflag, exec_of_illegalOperand (i := .setCrc flag) hflag⟩

/-- Settles O42: the flag is part of what no command but `SET_CRC` notices. -/
theorem crcFlagIsInert : Obligations.CrcFlagIsInert := by
  intro i s t b hi h
  have hd := exec_disturb (f := s.cfg.P_LINE_FREQ_HZ) (u := s.cfg.P_TIME_UNIT) (g := fun _ => b) i s (absurd · hi)
  have ht : t.disturb s.cfg.P_LINE_FREQ_HZ s.cfg.P_TIME_UNIT (fun _ => b) = { t with CRC_EN := b } := by
    rw [State.disturb, ← exec_cfg h]
  rw [h] at hd
  exact hd.trans (congrArg _ ht)

end Sys2Proof.Machine

namespace Sys2Proof.Machine

variable {s t : State}

/-! ## R240 to R242: errors -/

/-- Settles O45: the causes are checked in the order of R242 (`exec_endsWith_statusBySpec`). -/
theorem statusFollowsThePriority : Obligations.StatusFollowsThePriority := fun i _ hs => exec_endsWith_statusBySpec i hs

theorem decodeStatus_ne (e : DecodeError) : decodeStatus e ≠ .OK ∧ decodeStatus e ≠ .INVALID_CHANNEL := by
  cases e <;> decide

/-- Only a command that has performed all its actions ends with `OK`, and only a platform that stalls leaves one without a
status (R241, R248). -/
theorem errors_precise_of_next {i : Instr} (h : exec i s = .next t) :
    (s.STALL ≠ none ∧ t.STATUS = s.STATUS ∧ t.BUSY = s.BUSY) ∨
      ∃ c, t.STATUS = some c ∧
        (c ≠ .OK → t = { s with
          STATUS := some c, BUSY := false, SEQ := none
          RVAL0 := if c = .INVALID_CHANNEL ∧ leavesSentinel i = true then some (minusOne s.cfg.P_NUMERICS) else s.RVAL0 }) := by
  obtain ⟨c, _, hc, rfl⟩ | ⟨hl, rfl⟩ | ⟨u, _, rfl⟩ | ⟨_, _, _, _, _, rfl⟩ | ⟨_, _, _, _, _, _, rfl, h0⟩ := exec_next h
  · exact .inr ⟨c, rfl, fun _ => by rw [if_neg hc]; rfl⟩
  · exact .inr ⟨.INVALID_CHANNEL, rfl, fun _ => by rw [if_pos ⟨rfl, hl⟩, ← sentinel_eq_minusOne]; rfl⟩
  · exact .inr ⟨.OK, rfl, fun hc => absurd rfl hc⟩
  · exact .inr ⟨.OK, rfl, fun hc => absurd rfl hc⟩
  · exact .inl ⟨fun hs => by simp [hs] at h0, rfl, rfl⟩

/-- Settles O44: the ways a command can go on (`exec_next`), and the step that rejects a string (`step_of_decode_error`). -/
theorem errorsArePrecise : Obligations.ErrorsArePrecise := by
  refine ⟨fun i s => ?_, fun s c later e hb hp he => ?_⟩
  · obtain ⟨t, h⟩ := everyCommandAnswersANextState i s
    exact ⟨t, h, errors_precise_of_next h⟩
  · obtain ⟨hok, hchannel⟩ := decodeStatus_ne e
    exact ⟨decodeStatus e, hok, hchannel, step_of_decode_error hb hp he⟩

end Sys2Proof.Machine

namespace Sys2Proof.Machine

variable {s t : State}

/-! ## R248: a platform that stalls inside a command -/

/-! ### Actions that write results at their end -/

/-- Actions that go as far as the platform goes, and then writes that the platform does not change and that leave the trace. -/
def Flow.TracksThenWrites (f : State → Flow Unit) : Prop :=
  ∃ (α : Type) (g : State → Flow α) (w : α → State → State), Flow.Tracks g ∧
    (∀ a u k, w a (u.withBudget k) = (w a u).withBudget k) ∧ (∀ a u, (w a u).TRACE = u.TRACE) ∧
    ∀ s, f s = (g s).andThen fun a u => .on () (w a u)

theorem Flow.Tracks.noWrites {f : State → Flow Unit} (hf : Flow.Tracks f) : Flow.TracksThenWrites f :=
  ⟨Unit, f, fun _ u => u, hf, fun _ _ _ => rfl, fun _ _ => rfl, fun s => by cases f s <;> rfl⟩

/-- More actions before them. -/
theorem Flow.Tracks.before {f k : State → Flow Unit} (hf : Flow.Tracks f) (hk : Flow.TracksThenWrites k) :
    Flow.TracksThenWrites fun s => (f s).andThen fun _ u => k u := by
  obtain ⟨α, g, w, hg, hw, htrace, hk⟩ := hk
  exact ⟨α, fun s => (f s).andThen fun _ => g, w, hf.bind fun _ => hg, hw, htrace, fun s => by
    simp only [hk, Flow.andThen_assoc]⟩

/-- The two transactions of a read, with the payload that they bring (R123, R125). -/
def capture (n : Nat) (a : Byte) (s : State) : Flow Payload :=
  ((sendf (addressFrame a) s).andThen fun _ u => txn (List.replicate n P_FILLER) u).andThen fun r u =>
  .on (payloadOf (r.drop (n - 4))) u

theorem readPath_eq_capture (n : Nat) (a : Byte) (s : State) :
    readPath n a s = (capture n a s).andThen fun p u => .on p { u with PB := some p } := by
  simp only [readPath, capture, Flow.andThen_assoc]; rfl

theorem capture_tracks (n : Nat) (a : Byte) : Flow.Tracks (capture n a) := (readPath_tracks n a).bind fun _ => .pure _

/-- A read and then its results; the configuration gives the number of bytes to capture. -/
theorem readPath_tracksThenWrites (n : Config → Nat) (a : Byte) {w : Payload → State → State}
    (hw : ∀ p u k, w p (u.withBudget k) = (w p u).withBudget k) (htrace : ∀ p u, (w p u).TRACE = u.TRACE) :
    Flow.TracksThenWrites fun s => (readPath (n s.cfg) a s).andThen fun p u => .on () (w p u) :=
  ⟨Payload, fun s => capture (n s.cfg) a s, fun p u => w p { u with PB := some p },
    .ofCfg (g := fun s => n s.cfg) (fun _ _ => rfl) fun m => capture_tracks m a,
    fun p u k => hw p { u with PB := some p } k, fun p u => htrace p { u with PB := some p },
    fun s => by simp only [readPath_eq_capture, Flow.andThen_assoc]; rfl⟩

theorem readf_tracksThenWrites (a : Byte) {w : Payload → State → State}
    (hw : ∀ p u k, w p (u.withBudget k) = (w p u).withBudget k) (htrace : ∀ p u, (w p u).TRACE = u.TRACE) :
    Flow.TracksThenWrites fun s => (readf a s).andThen fun p u => .on () (w p u) :=
  readPath_tracksThenWrites (fun _ => 4) a hw htrace

theorem energyPath_eq (c : Chan) (a : Byte) (s : State) : energyPath c a s = readPath (energyDropped s.cfg c + 4) a s := by
  unfold energyPath energyDropped
  split <;> rfl

theorem readEnergyBody_tracksThenWrites (c : Chan) (a : Byte) : Flow.TracksThenWrites (readEnergyBody c a) := by
  have h := readPath_tracksThenWrites (fun cfg => energyDropped cfg c + 4) a
    (w := fun p u => { u with RVAL0 := some (convE u.cfg.P_NUMERICS (field_u32 p)) }) (fun _ _ _ => rfl) fun _ _ => rfl
  simp only [← energyPath_eq] at h
  exact h

theorem latchIfNeeded_tracks (latches : Bool) : Flow.Tracks (latchIfNeeded latches) :=
  .ofCfg (g := needsLatch latches) (f := fun b s => if b then latchSeq s else .on () s) (fun _ _ => rfl) fun b => by
    cases b
    · exact .pure ()
    · exact latchSeq_tracks

/-! ### Commands -/

/-- A command performs events and ends; with a platform that completes only `n` actions it does the same when `n` is enough, and
otherwise it is left after the first `n` events. -/
def TracksPlatform (k : State → Outcome) (s : State) : Prop :=
  ∃ evs t, t.TRACE = s.TRACE ++ evs ∧ k s = .next t ∧
    ∀ n, k (s.withBudget n) =
      .next (if evs.length ≤ n then t.withBudget (n - evs.length) else (s.withBudget n).didAll (evs.take n))

theorem Flow.TracksThenWrites.finish {f : State → Flow Unit} (hf : Flow.TracksThenWrites f) (hs : s.STALL = none) :
    TracksPlatform (fun s => (f s).finish) s := by
  obtain ⟨α, g, w, hg, hw, htrace, hf⟩ := hf
  obtain ⟨a, evs, hlive, hbudget⟩ := hg s hs
  refine ⟨evs, (w a (s.didAll evs)).complete .OK, by simp [htrace], by simp only [hf, hlive]; rfl, fun n => ?_⟩
  simp only [hf, hbudget]
  split
  · rw [State.withBudget_didAll]
    exact congrArg (fun u => ok u) (hw a _ _)
  · rfl

/-- A command that performs no action. -/
theorem tracksPlatform_of_instant {k : State → Outcome} (h : k s = .next t) (htrace : t.TRACE = s.TRACE)
    (hn : ∀ n, k (s.withBudget n) = .next (t.withBudget n)) : TracksPlatform k s :=
  ⟨[], t, by simpa using htrace, h, by simpa using hn⟩

/-- The checks of a command do not see the platform. -/
theorem tracksPlatform_of_check {e : State → Option Status} {f : State → Flow Unit}
    (he : ∀ n, e (s.withBudget n) = e s) (hf : Flow.TracksThenWrites f) (hs : s.STALL = none) :
    TracksPlatform (fun s => match e s with | some c => raise c s | none => (f s).finish) s := by
  cases h : e s with
  | some c => exact tracksPlatform_of_instant (t := s.complete c) (by simp only [h]; rfl) rfl fun n => by simp only [he, h]; rfl
  | none => simpa only [TracksPlatform, he, h] using hf.finish hs

theorem measureRead_tracksPlatform (q : Quantity) (latches sent : Bool) (ch : Byte) {body : Chan → Byte → State → Flow Unit}
    (hb : ∀ c a, Flow.TracksThenWrites (body c a)) (hs : s.STALL = none) :
    TracksPlatform (measureRead q latches sent ch body) s := by
  have hcfg : ∀ n, (s.withBudget n).cfg = s.cfg := fun _ => rfl
  simp only [TracksPlatform, measureRead, hcfg]
  split
  · exact tracksPlatform_of_check (e := readError latches) (fun _ => rfl) ((latchIfNeeded_tracks latches).before (hb _ _)) hs
  · cases sent
    · exact tracksPlatform_of_instant (k := raise .INVALID_CHANNEL) rfl rfl fun _ => rfl
    · exact tracksPlatform_of_instant (k := raiseSentinel) rfl rfl fun _ => rfl

/-- Every command either performs no action, or checks the state, performs actions and then writes its results. -/
theorem exec_tracksPlatform (i : Instr) (hs : s.STALL = none) : TracksPlatform (exec i) s := by
  cases i
  case init =>
    exact Flow.TracksThenWrites.finish ⟨Unit, bringup, fun _ u => { u with READY := true, RINT := some 1 }, bringup_tracks,
      fun _ _ _ => rfl, fun _ _ => rfl, fun _ => rfl⟩ hs
  case sendFrame => exact tracksPlatform_of_check (e := readyError) (fun _ => rfl) (sendf_tracks _).noWrites hs
  case readFrame addr =>
    exact tracksPlatform_of_check (e := readyError) (fun _ => rfl)
      (readf_tracksThenWrites addr (fun _ _ _ => rfl) fun _ _ => rfl) hs
  case readFrameSettled addr =>
    exact tracksPlatform_of_check (e := readyError) (fun _ => rfl)
      (readPath_tracksThenWrites (fun _ => 16) addr (fun _ _ _ => rfl) fun _ _ => rfl) hs
  case latch =>
    exact tracksPlatform_of_check (e := fun s => firstError [readyError s, latchError s.cfg]) (fun _ => rfl)
      latchSeq_tracks.noWrites hs
  case readRms =>
    exact measureRead_tracksPlatform _ _ _ _ (fun _ a => readf_tracksThenWrites a (fun _ _ _ => rfl) fun _ _ => rfl) hs
  case readRmsV =>
    exact measureRead_tracksPlatform _ _ _ _ (fun _ a => readf_tracksThenWrites a (fun _ _ _ => rfl) fun _ _ => rfl) hs
  case readRmsI =>
    exact measureRead_tracksPlatform _ _ _ _ (fun _ a => readf_tracksThenWrites a (fun _ _ _ => rfl) fun _ _ => rfl) hs
  case readPower =>
    exact measureRead_tracksPlatform _ _ _ _ (fun _ a => readf_tracksThenWrites a (fun _ _ _ => rfl) fun _ _ => rfl) hs
  case readEnergy =>
    exact measureRead_tracksPlatform _ _ _ _ readEnergyBody_tracksThenWrites hs
  case addrLookup ch qty =>
    have hcfg : ∀ n, (s.withBudget n).cfg = s.cfg := fun _ => rfl
    simp only [TracksPlatform, exec, execAddrLookup, hcfg]
    split
    · exact tracksPlatform_of_instant (k := raise .ILLEGAL_OPERAND) rfl rfl fun _ => rfl
    · split
      · exact tracksPlatform_of_instant (k := raise .INVALID_CHANNEL) rfl rfl fun _ => rfl
      · next a _ => exact tracksPlatform_of_instant (k := fun s => ok { s with RINT := some a.toNat }) rfl rfl fun _ => rfl
  case setCal kv ki =>
    show TracksPlatform (execSetCal kv ki) s
    unfold execSetCal
    split <;> exact tracksPlatform_of_instant rfl rfl fun _ => rfl
  case setAutoLatch flag =>
    show TracksPlatform (execSetAutoLatch flag) s
    unfold execSetAutoLatch
    split <;> exact tracksPlatform_of_instant rfl rfl fun _ => rfl
  case setCrc flag =>
    show TracksPlatform (execSetCrc flag) s
    unfold execSetCrc
    split <;> exact tracksPlatform_of_instant rfl rfl fun _ => rfl
  case convV ch raw =>
    show TracksPlatform (execConvV ch raw) s
    unfold execConvV
    split
    · exact tracksPlatform_of_instant rfl rfl fun _ => rfl
    · split <;> exact tracksPlatform_of_instant rfl rfl fun _ => rfl
  case convI ch raw =>
    show TracksPlatform (execConvI ch raw) s
    unfold execConvI
    split
    · exact tracksPlatform_of_instant rfl rfl fun _ => rfl
    · split <;> exact tracksPlatform_of_instant rfl rfl fun _ => rfl
  case convP ch raw =>
    show TracksPlatform (execConvP ch raw) s
    unfold execConvP
    split <;> exact tracksPlatform_of_instant rfl rfl fun _ => rfl
  all_goals exact tracksPlatform_of_instant rfl rfl fun _ => rfl

/-- Settles O51: the events of the completed command are those that `exec_tracksPlatform` cuts, and the engine it leaves is
still busy. -/
theorem stalledPlatformCutsTheCommandShort : Obligations.StalledPlatformCutsTheCommandShort := by
  intro i s t evs k hs hbusy hexec htrace
  obtain ⟨evs', t', htrace', hexec', hcut⟩ := exec_tracksPlatform i hs
  obtain rfl : t = t' := Host.Outcome.next.inj (hexec.symm.trans hexec')
  obtain rfl : evs = evs' := List.append_cancel_left (htrace.symm.trans htrace')
  refine ⟨fun hk => ?_, fun hk => ⟨(s.withBudget k).didAll (evs.take k), ?_, ?_, step_of_busy hbusy⟩⟩
  · exact (hcut k).trans (by rw [if_pos hk]; rfl)
  · exact (hcut k).trans (by rw [if_neg (by omega)])
  · simp [State.didAll, State.withBudget, Nat.min_eq_left hk.le]

end Sys2Proof.Machine

namespace Sys2Proof.Machine

/-! ## R270: the state after reset -/

/-! ### The multiplier 1 in either domain -/

@[simp] theorem numOne_EXACT : numOne .EXACT = .exact 1 := rfl

@[simp] theorem numOne_BINARY32 : numOne .BINARY32 = .binary32 0x3F800000 := by
  have h : B32.ofRat ((1 : Int) : Rat) = 0x3F800000 := by decide +kernel
  exact congrArg NumVal.binary32 h

/-- Calibration starts with a good multiplier (R25). -/
theorem goodMultiplier_numOne (m : Numerics) : GoodMultiplier m (numOne m) := by
  cases m with
  | EXACT => exact one_pos (α := ℚ)
  | BINARY32 =>
    rw [numOne_BINARY32]
    exact (positiveFinite_iff _).1 (by decide)

theorem State.resetWith_CAL_V (c : Config) : (State.resetWith c).CAL_V = CalRow.uniform (numOne c.P_NUMERICS) := rfl

theorem State.resetWith_CAL_I (c : Config) : (State.resetWith c).CAL_I = CalRow.uniform (numOne c.P_NUMERICS) := rfl

/-- Settles O8: only the six multipliers depend on the configuration, by its number domain. -/
theorem resetLeavesTheListedValues : Obligations.ResetLeavesTheListedValues := by
  refine ⟨rfl, fun c => ⟨rfl, rfl, rfl, rfl, rfl, fun hm => ?exact, fun hm => ?binary32,
    rfl, rfl, rfl, rfl, rfl, rfl, rfl, rfl, rfl, rfl⟩⟩
  case exact =>
    rw [State.resetWith_CAL_V, State.resetWith_CAL_I, hm, numOne_EXACT]
    exact ⟨rfl, rfl⟩
  case binary32 =>
    rw [State.resetWith_CAL_V, State.resetWith_CAL_I, hm, numOne_BINARY32]
    exact ⟨rfl, rfl⟩

/-! ### The invariants at reset -/

theorem idleInv_reset (c : Config) : IdleInv (State.resetWith c) := ⟨rfl, fun _ => rfl⟩

theorem calInv_reset (c : Config) : CalInv (State.resetWith c) :=
  ⟨goodMultiplier_numOne _, goodMultiplier_numOne _, rfl, rfl, rfl, rfl⟩

/-- No event has moved a pin or begun the bus. -/
theorem interfaceInv_reset (c : Config) : InterfaceInv (State.resetWith c) := ⟨(replayPins_nil c _).symm, rfl⟩

/-- The empty trace has no transaction open. -/
theorem txnInv_reset (c : Config) : TxnInv (State.resetWith c) :=
  have h : BetweenTxns (State.resetWith c) := ⟨rfl, rfl⟩
  h.txnInv

/-- `READY` is false, and nothing has been performed (R271). -/
theorem bringupInv_reset (c : Config) : BringupInv (State.resetWith c) :=
  ⟨fun hready => (nomatch hready), fun _ _ => rfl, fun _ hready => (nomatch hready)⟩

/-- `RINT` is unwritten. -/
theorem rintInv_reset (c : Config) : RintInv (State.resetWith c) := fun _ hwritten => (nomatch hwritten)

/-- `RVAL0` and `RVAL1` are unwritten. -/
theorem rvalInv_reset (c : Config) : RvalInv (State.resetWith c) :=
  ⟨fun _ hwritten => (nomatch hwritten), fun _ hwritten => (nomatch hwritten)⟩

/-- Settles O59: one lemma for each invariant. -/
theorem resetMeetsTheInvariants : Obligations.ResetMeetsTheInvariants := fun c =>
  ⟨idleInv_reset c, calInv_reset c, interfaceInv_reset c, txnInv_reset c, bringupInv_reset c, rintInv_reset c,
    rvalInv_reset c⟩

end Sys2Proof.Machine
